-- ==== Sys2Proof/Word.lean ====
section
/-! DEFINITION. The word types of the block and nothing else: the widths of `00_scope.md` R8. -/

namespace Sys2Proof

/-- A byte: the width of a general register, of a timer and of a memory cell (R8 `V_WIDTH`, `TIMER_WIDTH`; R60). -/
abbrev Byte := BitVec 8

/-- A 16-bit word: an opcode (R11), the program counter (R25), the index register (R28), a stack entry (R30). -/
abbrev Word := BitVec 16

/-- A 12-bit address immediate `nnn` (R12). -/
abbrev Addr12 := BitVec 12

/-- A 4-bit field of an opcode (R11). -/
abbrev Nibble := BitVec 4

/-- The index of a general register. It comes from an opcode nibble, so an index out of range cannot be written down
(R21; `93_implementation_defined.md` U13: "unrepresentable (4-bit index type)"). -/
abbrev Reg := BitVec 4

end Sys2Proof
end

