-- ==== Sys2Proof/Syntax.lean ====
section
/-! DEFINITION. The instructions: one constructor for each of the 34 rows of the opcode map (`30_encoding.md` R94),
with the operands of its layout (R92). The `y` of the shifts is kept, encoded and ignored (R100, R168, R170). -/

namespace Sys2Proof

/-- The 34 instructions of R94, in the order of that table. -/
inductive Instr where
  /-- 00E0, `CLS` (R212) -/
  | cls
  /-- 00EE, `RET` (R142) -/
  | ret
  /-- 1nnn, `JP addr` (R143) -/
  | jp (nnn : Addr12)
  /-- 2nnn, `CALL addr` (R144) -/
  | call (nnn : Addr12)
  /-- 3xnn, `SE Vx, byte` (R146) -/
  | seImm (x : Reg) (nn : Byte)
  /-- 4xnn, `SNE Vx, byte` (R147) -/
  | sneImm (x : Reg) (nn : Byte)
  /-- 5xy0, `SE Vx, Vy` (R148) -/
  | seReg (x y : Reg)
  /-- 6xnn, `LD Vx, byte` (R160) -/
  | ldImm (x : Reg) (nn : Byte)
  /-- 7xnn, `ADD Vx, byte` (R161) -/
  | addImm (x : Reg) (nn : Byte)
  /-- 8xy0, `LD Vx, Vy` (R162) -/
  | ldReg (x y : Reg)
  /-- 8xy1, `OR Vx, Vy` (R163) -/
  | orReg (x y : Reg)
  /-- 8xy2, `AND Vx, Vy` (R164) -/
  | andReg (x y : Reg)
  /-- 8xy3, `XOR Vx, Vy` (R165) -/
  | xorReg (x y : Reg)
  /-- 8xy4, `ADD Vx, Vy` (R166) -/
  | addReg (x y : Reg)
  /-- 8xy5, `SUB Vx, Vy` (R167) -/
  | subReg (x y : Reg)
  /-- 8xy6, `SHR Vx, Vy` (R168) -/
  | shr (x y : Reg)
  /-- 8xy7, `SUBN Vx, Vy` (R169) -/
  | subn (x y : Reg)
  /-- 8xyE, `SHL Vx, Vy` (R170) -/
  | shl (x y : Reg)
  /-- 9xy0, `SNE Vx, Vy` (R149) -/
  | sneReg (x y : Reg)
  /-- Annn, `LD I, addr` (R190) -/
  | ldI (nnn : Addr12)
  /-- Bnnn, `JP V0, addr` (R145) -/
  | jpV0 (nnn : Addr12)
  /-- Cxnn, `RND Vx, byte` (R171) -/
  | rnd (x : Reg) (nn : Byte)
  /-- Dxyn, `DRW Vx, Vy, nibble` (R213) -/
  | drw (x y : Reg) (n : Nibble)
  /-- Ex9E, `SKP Vx` (R234) -/
  | skp (x : Reg)
  /-- ExA1, `SKNP Vx` (R235) -/
  | sknp (x : Reg)
  /-- Fx07, `LD Vx, DT` (R231) -/
  | ldVxDt (x : Reg)
  /-- Fx0A, `LD Vx, K` (R236) -/
  | ldVxK (x : Reg)
  /-- Fx15, `LD DT, Vx` (R232) -/
  | ldDtVx (x : Reg)
  /-- Fx18, `LD ST, Vx` (R233) -/
  | ldStVx (x : Reg)
  /-- Fx1E, `ADD I, Vx` (R191) -/
  | addI (x : Reg)
  /-- Fx29, `LD F, Vx` (R192) -/
  | ldF (x : Reg)
  /-- Fx33, `LD B, Vx` (R193) -/
  | ldB (x : Reg)
  /-- Fx55, `LD [I], Vx` (R194) -/
  | storeRegs (x : Reg)
  /-- Fx65, `LD Vx, [I]` (R195) -/
  | loadRegs (x : Reg)
  deriving DecidableEq, Repr

end Sys2Proof
end

