-- ==== Sys2Proof/Decode.lean ====
section
/-! DEFINITION. The decoder (`30_encoding.md` R97: a scan of the opcode table R94, total on every word and on every list
of bytes) and, after it, the encoder written from the same table. -/

namespace Sys2Proof

/-! ## Fields of an opcode (R11, R12) -/

/-- `x = n1 = op[11:8]` -/
def fieldX (op : Word) : Reg := op.extractLsb' 8 4
/-- `y = n2 = op[7:4]` -/
def fieldY (op : Word) : Reg := op.extractLsb' 4 4
/-- `n = n3 = op[3:0]` -/
def fieldN (op : Word) : Nibble := op.extractLsb' 0 4
/-- `nn = op[7:0]` -/
def fieldNN (op : Word) : Byte := op.extractLsb' 0 8
/-- `nnn = op[11:0]` -/
def fieldNNN (op : Word) : Addr12 := op.extractLsb' 0 12

/-! ## The opcode table (R94) -/

/-- One row of R94: the mask, the match, and the instruction made of the fields of the row's layout (R92). -/
structure Row where
  mask : Word
  pat : Word
  build : Word → Instr

/-- "opcode `op` selects a row when `(op & mask) == match`" (R94). -/
def Row.selects (r : Row) (op : Word) : Bool := op &&& r.mask == r.pat

/-- A row of layout `nnn`. -/
def rowNNN (pat : Word) (f : Addr12 → Instr) : Row := ⟨0xF000, pat, fun op => f (fieldNNN op)⟩
/-- A row of layout `xnn`. -/
def rowXNN (pat : Word) (f : Reg → Byte → Instr) : Row := ⟨0xF000, pat, fun op => f (fieldX op) (fieldNN op)⟩
/-- A row of layout `xy`. -/
def rowXY (pat : Word) (f : Reg → Reg → Instr) : Row := ⟨0xF00F, pat, fun op => f (fieldX op) (fieldY op)⟩
/-- A row of layout `x`. -/
def rowX (pat : Word) (f : Reg → Instr) : Row := ⟨0xF0FF, pat, fun op => f (fieldX op)⟩

/-- R94, row by row. The sub-selectors of 8xy1 to 8xy7 and of Fx07, Fx15, Fx18 stand in R94 and are marked there as
general knowledge (R95, R96; log 9). -/
def opcodeTable : List Row :=
  [ ⟨0xFFFF, 0x00E0, fun _ => .cls⟩,
    ⟨0xFFFF, 0x00EE, fun _ => .ret⟩,
    rowNNN 0x1000 .jp,
    rowNNN 0x2000 .call,
    rowXNN 0x3000 .seImm,
    rowXNN 0x4000 .sneImm,
    rowXY 0x5000 .seReg,
    rowXNN 0x6000 .ldImm,
    rowXNN 0x7000 .addImm,
    rowXY 0x8000 .ldReg,
    rowXY 0x8001 .orReg,
    rowXY 0x8002 .andReg,
    rowXY 0x8003 .xorReg,
    rowXY 0x8004 .addReg,
    rowXY 0x8005 .subReg,
    rowXY 0x8006 .shr,
    rowXY 0x8007 .subn,
    rowXY 0x800E .shl,
    rowXY 0x9000 .sneReg ] ++
  [ rowNNN 0xA000 .ldI,
    rowNNN 0xB000 .jpV0,
    rowXNN 0xC000 .rnd,
    ⟨0xF000, 0xD000, fun op => .drw (fieldX op) (fieldY op) (fieldN op)⟩,
    rowX 0xE09E .skp,
    rowX 0xE0A1 .sknp,
    rowX 0xF007 .ldVxDt,
    rowX 0xF00A .ldVxK,
    rowX 0xF015 .ldDtVx,
    rowX 0xF018 .ldStVx,
    rowX 0xF01E .addI,
    rowX 0xF029 .ldF,
    rowX 0xF033 .ldB,
    rowX 0xF055 .storeRegs,
    rowX 0xF065 .loadRegs ]

/-! ## The decoder (R97) -/

/-- What the decoder answers. -/
inductive Decoded where
  /-- The instruction of the one row the opcode selects. -/
  | insn (i : Instr)
  /-- The opcode selects no row: DECODE_ERROR with the opcode as information (R97, R98). -/
  | illegal (op : Word)
  /-- Fewer than two bytes were given: no opcode (R90: "exactly one 16-bit opcode occupying two consecutive bytes").
  The fetch always gives two. -/
  | truncated
  deriving DecidableEq, Repr

/-- R97: the instruction of the row that `op` selects; DECODE_ERROR where no row is selected. -/
def decodeOp (op : Word) : Decoded :=
  match opcodeTable.find? (·.selects op) with
  | some r => .insn (r.build op)
  | none => .illegal op

/-- "first byte = high byte" (R67, R90). -/
def opcodeOf (hi lo : Byte) : Word := hi ++ lo

/-- The decoder on bytes, the first at the lowest address; bytes after the opcode are not looked at. -/
def decode : List Byte → Decoded
  | hi :: lo :: _ => decodeOp (opcodeOf hi lo)
  | _ => .truncated

/-- The two bytes of an opcode as memory holds them, high byte first (R67, R90). -/
def highByte (op : Word) : Byte := op.extractLsb' 8 8
/-- The byte at the higher address. -/
def lowByte (op : Word) : Byte := op.extractLsb' 0 8

/-- The opcode whose bits 0 to nbits - 1 are those of `w` and whose other bits are 0. -/
def tableOpcode (nbits w : Nat) : Word := BitVec.ofNat 16 (w % 2 ^ nbits)

/-- The decoder on a word numbered as `spec/opcode_table.json` numbers it (bit 0 the least significant bit of the 16-bit
opcode), laid out as memory holds it. -/
def decodeTableWord (nbits w : Nat) : Option Instr :=
  match decode [highByte (tableOpcode nbits w), lowByte (tableOpcode nbits w)] with
  | .insn i => some i
  | _ => none

/-! ## The encoder (the same rows, R92 and R94) -/

/-- An opcode of layout `nnn`: nibble n0, then the 12 bits of nnn. -/
def wordNNN (n0 : Nibble) (nnn : Addr12) : Word := n0 ++ nnn
/-- An opcode of layout `xnn`, and of layout `x` with its fixed low byte. -/
def wordXNN (n0 : Nibble) (x : Reg) (nn : Byte) : Word := n0 ++ x ++ nn
/-- An opcode of layout `xyn`, and of layout `xy` with its fixed low nibble. -/
def wordXYN (n0 : Nibble) (x y : Reg) (n : Nibble) : Word := n0 ++ x ++ y ++ n

/-- The opcode of an instruction. -/
def encode : Instr → Word
  | .cls => 0x00E0
  | .ret => 0x00EE
  | .jp nnn => wordNNN 0x1 nnn
  | .call nnn => wordNNN 0x2 nnn
  | .seImm x nn => wordXNN 0x3 x nn
  | .sneImm x nn => wordXNN 0x4 x nn
  | .seReg x y => wordXYN 0x5 x y 0x0
  | .ldImm x nn => wordXNN 0x6 x nn
  | .addImm x nn => wordXNN 0x7 x nn
  | .ldReg x y => wordXYN 0x8 x y 0x0
  | .orReg x y => wordXYN 0x8 x y 0x1
  | .andReg x y => wordXYN 0x8 x y 0x2
  | .xorReg x y => wordXYN 0x8 x y 0x3
  | .addReg x y => wordXYN 0x8 x y 0x4
  | .subReg x y => wordXYN 0x8 x y 0x5
  | .shr x y => wordXYN 0x8 x y 0x6
  | .subn x y => wordXYN 0x8 x y 0x7
  | .shl x y => wordXYN 0x8 x y 0xE
  | .sneReg x y => wordXYN 0x9 x y 0x0
  | .ldI nnn => wordNNN 0xA nnn
  | .jpV0 nnn => wordNNN 0xB nnn
  | .rnd x nn => wordXNN 0xC x nn
  | .drw x y n => wordXYN 0xD x y n
  | .skp x => wordXNN 0xE x 0x9E
  | .sknp x => wordXNN 0xE x 0xA1
  | .ldVxDt x => wordXNN 0xF x 0x07
  | .ldVxK x => wordXNN 0xF x 0x0A
  | .ldDtVx x => wordXNN 0xF x 0x15
  | .ldStVx x => wordXNN 0xF x 0x18
  | .addI x => wordXNN 0xF x 0x1E
  | .ldF x => wordXNN 0xF x 0x29
  | .ldB x => wordXNN 0xF x 0x33
  | .storeRegs x => wordXNN 0xF x 0x55
  | .loadRegs x => wordXNN 0xF x 0x65

end Sys2Proof
end

