-- ==== Sys2Proof/Machine/State.lean ====
section
/-! DEFINITION. The state of the block as plain data, the kinds of fault, and the state after reset
(`10_state.md` R20 to R39, `60_exceptions.md` R250 and R251, `70_reset_and_hazards.md` R280). -/

namespace Sys2Proof.Machine

/-- The six kinds of fault (R250). A kind stands in the record that State holds in `fault`: a tick that raises one takes
the fault entry of R252 as a NEXT state, and no step of this model answers `Outcome.fault` (log 1). The behaviour of each
is the spec's own; where the reference goes on instead (D11, D13, D15), the stop is safe. -/
inductive Fault where
  /-- Raised by the decoder (R97, R98): the opcode selects no row. Information: the opcode. Safe. -/
  | decodeError
  /-- Raised by 2nnn (R140): push with SP = 16. Information: the PC of the call. Safe. -/
  | stackOverflow
  /-- Raised by 00EE (R141): pop with SP = 0. Information: the PC of the return. Safe. -/
  | stackUnderflow
  /-- Raised by the fetch (R122): PC + 1 ≥ 4096. Information: PC. Safe. -/
  | fetchOutOfBounds
  /-- Raised by Dxyn, Fx33, Fx55, Fx65 (R62 to R65): a data address of 4096 or more. Information: the lowest such
  address. Safe as a stop; unsafe for a claim about what the stopped instruction left in memory, V or DISP (D3). -/
  | memOutOfBounds
  /-- Raised by Ex9E and ExA1 (R230): V[x] ≥ 16. Information: V[x]. Safe. -/
  | keyOutOfBounds
  deriving DecidableEq, Repr

/-- The numeric code of a kind (R250; labels only, D4). Code 0 is "none", the absence of a record. -/
def Fault.code : Fault → Nat
  | .decodeError => 1
  | .stackOverflow => 2
  | .stackUnderflow => 3
  | .fetchOutOfBounds => 4
  | .memOutOfBounds => 5
  | .keyOutOfBounds => 6

/-- A fault record (R251): "the triple (code, info, pc), pc being the PC of the tick that faulted". The spec gives `info`
no width: it is a number (log 6). -/
structure FaultRecord where
  kind : Fault
  info : Nat
  pc : Word
  deriving DecidableEq, Repr

/-- Why a step could have no meaning. Every instruction of this model has one, so no step is refused. -/
inductive Refusal where
  /-- Raised by an arm of `exec` that has no meaning yet: there is none left. Safe. -/
  | notModelled (mnemonic : String)
  deriving DecidableEq, Repr

/-- The 4096 bytes of memory (R60), as the sorted list of the cells whose byte differs from what that address holds after
reset (`Memory.read`, `Memory.wf` in `Machine/Memory.lean`; log 2). -/
abbrev Memory := List Host.Cell

/-- The grid of 32 rows of 64 pixels, row-major, true = on (R34). -/
abbrev Display := Vector (Vector Bool 64) 32

/-- Everything the spec gives the block, and `draws`. -/
structure State where
  /-- V0 to VF (R20) -/
  v : Vector Byte 16
  /-- PC (R25) -/
  pc : Word
  /-- I (R28) -/
  i : Word
  /-- The call stack S[0..SP-1], oldest entry first; SP is its length (R30, R39; log 5) -/
  stack : List Word
  /-- DT (R32) -/
  dt : Byte
  /-- ST (R32) -/
  st : Byte
  /-- M (R33, R60) -/
  mem : Memory
  /-- DISP (R34) -/
  display : Display
  /-- DIRTY (R35) -/
  dirty : Bool
  /-- KEY[0..15] (R36), written by the host only -/
  keys : Vector Bool 16
  /-- FAULT (R37, R251) -/
  fault : Option FaultRecord
  /-- The model's own: how many bytes of the free stream `Config.rand` have been drawn (R54, R171; log 4) -/
  draws : Nat
  deriving DecidableEq, Repr

/-- The state after reset (R280), every field at the value the spec gives it. Memory lists nothing: every address reads
as it does after reset (R33, R61). `draws` is the model's own, 0 by DESIGN CHOICE (log 4). -/
def State.reset : State where
  v := Vector.replicate 16 0
  pc := 0x200
  i := 0
  stack := []
  dt := 0
  st := 0
  mem := []
  display := Vector.replicate 32 (Vector.replicate 64 false)
  dirty := false
  keys := Vector.replicate 16 false
  fault := none
  draws := 0

/-- What a step answers. -/
abbrev Result := Host.Outcome State Fault Refusal

end Sys2Proof.Machine
end

