-- ==== Sys2Proof/Config.lean ====
section
/-! DEFINITION. What is fixed for one machine: the parameters that `00_scope.md` R9 leaves open, as constants with no
body (nothing in Lean can learn their values), and the default glyph table that a claim may name. -/

namespace Sys2Proof

/-- The two policies of Fx29 for a register value of 16 or more (R9, R192, `92_eei_decisions.md` D14). -/
inductive GlyphAddrPolicy where
  | unmasked   -- I <- V[x] * 5
  | lowNibble  -- I <- (V[x] & 0xF) * 5
  deriving DecidableEq, Repr, Inhabited

/-- `GLYPH_TABLE`: the 80 bytes of the built-in glyph set, glyph c at c * 5 (R9, R33). The source does not give the
bytes and D17 leaves them open: "A claim that does not name the table holds for every table". (log 2) -/
opaque Config.glyphTable : Vector Byte 80

/-- `GLYPH_ADDR_POLICY` (R9, D14): left open, so a claim holds under both policies or names one. (log 3) -/
opaque Config.glyphAddrPolicy : GlyphAddrPolicy

/-- The bytes the host puts on the `rand` port (R54), one per execution of Cxnn, in order: any byte each (R9, D18).
`State.draws` counts the bytes drawn. (log 4) -/
opaque Config.rand : Nat → Byte

/-- The default of `GLYPH_TABLE` (R33), one row of five bytes per glyph. It is general knowledge, not the source's:
nothing in the model uses it; a claim about glyph pixels names it as a hypothesis `Config.glyphTable = …` (D17). -/
def Config.conventionalFont : Vector Byte 80 :=
  #v[0xF0, 0x90, 0x90, 0x90, 0xF0,
     0x20, 0x60, 0x20, 0x20, 0x70,
     0xF0, 0x10, 0xF0, 0x80, 0xF0,
     0xF0, 0x10, 0xF0, 0x10, 0xF0,
     0x90, 0x90, 0xF0, 0x10, 0x10,
     0xF0, 0x80, 0xF0, 0x10, 0xF0,
     0xF0, 0x80, 0xF0, 0x90, 0xF0,
     0xF0, 0x10, 0x20, 0x40, 0x40,
     0xF0, 0x90, 0xF0, 0x90, 0xF0,
     0xF0, 0x90, 0xF0, 0x10, 0xF0,
     0xF0, 0x90, 0xF0, 0x90, 0x90,
     0xE0, 0x90, 0xE0, 0x90, 0xE0,
     0xF0, 0x80, 0x80, 0x80, 0xF0,
     0xE0, 0x90, 0x90, 0x90, 0xE0,
     0xF0, 0x80, 0xF0, 0x80, 0xF0,
     0xF0, 0x80, 0xF0, 0x80, 0x80]

end Sys2Proof
end

