-- ==== Sys2Proof/Machine/Memory.lean ====
section
/-! DEFINITION. Memory: what an address reads as after reset, the read and the write of one byte, and the canonical form
(`20_memory.md` R60 to R63; `10_state.md` R33). -/

namespace Sys2Proof.Machine

/-- What an address that memory does not list reads as: its contents after reset (R33, R61): the glyph set at
0x000–0x04F, 0 elsewhere. (log 2) -/
def Memory.unlisted (a : Nat) : Byte := if h : a < 80 then Config.glyphTable[a] else 0

/-- `M[a]`. Reading has no side effect (R62). The bound of the port (a < 4096) is tested before any access: `fetch` for
R122, `checkRange` for R65. (log 15) -/
def Memory.read : Memory → Nat → Byte
  | [], a => Memory.unlisted a
  | (k, b) :: m, a => if k = a then b else Memory.read m a

/-- The cell that lists byte `b` at `a`: none where the address reads as `b` unlisted. -/
def Memory.cell (a : Nat) (b : Byte) : Memory := if b = Memory.unlisted a then [] else [(a, b)]

/-- `M[a] <- b` (R63), keeping the list sorted and without a cell that equals the reset contents. -/
def Memory.write : Memory → Nat → Byte → Memory
  | [], a, b => Memory.cell a b
  | (k, c) :: m, a, b =>
    if a < k then Memory.cell a b ++ (k, c) :: m
    else if a = k then Memory.cell a b ++ m
    else (k, c) :: Memory.write m a b

/-- `M[a] <- b[0]; M[a + 1] <- b[1]; …`, in ascending order (R69). -/
def Memory.writeList (m : Memory) (a : Nat) : List Byte → Memory
  | [] => m
  | b :: bs => Memory.writeList (m.write a b) (a + 1) bs

/-- `M[a], M[a + 1], …, M[a + n - 1]`, in ascending order (R69). -/
def Memory.readList (m : Memory) (a : Nat) : Nat → List Byte
  | 0 => []
  | n + 1 => m.read a :: Memory.readList m (a + 1) n

/-- The canonical form from address `lo` on: addresses strictly rising, inside the 4096 bytes of R60, and no cell equal to
what its address reads as unlisted. -/
def Memory.wfFrom (lo : Nat) : Memory → Bool
  | [] => true
  | (k, b) :: m => decide (lo ≤ k) && decide (k < 4096) && (b != Memory.unlisted k) && Memory.wfFrom (k + 1) m

/-- The canonical form of memory. -/
def Memory.wf (m : Memory) : Bool := Memory.wfFrom 0 m

end Sys2Proof.Machine
end

