-- ==== Sys2Proof/Machine/Ops.lean ====
section
/-! DEFINITION. The named operations every meaning is written over: registers, directives, the call stack, taking a fault,
the timers, the display, the keys, the random input (`40_cycle.md`, `41_control_flow.md` R140 and R141, `44_display.md`
R210 and R211, `45_timers_keys.md` R230, `60_exceptions.md` R251 and R252). -/

namespace Sys2Proof.Machine

/-! ## One update per field -/

def State.withV (s : State) (v : Vector Byte 16) : State := { s with v := v }
def State.withPc (s : State) (pc : Word) : State := { s with pc := pc }
def State.withI (s : State) (i : Word) : State := { s with i := i }
def State.withStack (s : State) (stack : List Word) : State := { s with stack := stack }
def State.withDt (s : State) (dt : Byte) : State := { s with dt := dt }
def State.withSt (s : State) (st : Byte) : State := { s with st := st }
def State.withMem (s : State) (mem : Memory) : State := { s with mem := mem }
def State.withDisplay (s : State) (display : Display) : State := { s with display := display }
def State.withDirty (s : State) (dirty : Bool) : State := { s with dirty := dirty }
def State.withKeys (s : State) (keys : Vector Bool 16) : State := { s with keys := keys }
def State.withFault (s : State) (fault : Option FaultRecord) : State := { s with fault := fault }
def State.withDraws (s : State) (draws : Nat) : State := { s with draws := draws }

/-! ## Registers (R13, R20 to R24) -/

/-- `V[x]` -/
def State.getV (s : State) (x : Reg) : Byte := s.v[x.toNat]'x.isLt

/-- `V[x] <- b` -/
def State.setV (s : State) (x : Reg) (b : Byte) : State := s.withV (s.v.set x.toNat b x.isLt)

/-- `VF <- b`: a flag write, written last (R24). -/
def State.setVF (s : State) (b : Byte) : State := s.setV 0xF b

/-- `V[k], V[k + 1], … <- bs`, in ascending register order (R195). -/
def State.setVs (s : State) (k : Nat) : List Byte → State
  | [] => s
  | b :: bs => State.setVs (s.setV (BitVec.ofNat 4 k) b) (k + 1) bs

/-- `V[k], V[k + 1], …, V[k + n - 1]`, in ascending register order (R194). -/
def State.getVs (s : State) (k : Nat) : Nat → List Byte
  | 0 => []
  | n + 1 => s.getV (BitVec.ofNat 4 k) :: State.getVs s (k + 1) n

/-! ## Directives (R127, R128) -/

/-- The three outcomes of an instruction for the program counter (R127). -/
inductive Directive where
  | next
  | skip
  | hold
  deriving DecidableEq, Repr

/-- R128: NEXT is PC + 2, SKIP is PC + 4, both modulo 65536; HOLD leaves PC. -/
def State.direct (s : State) : Directive → State
  | .next => s.withPc (s.pc + 2)
  | .skip => s.withPc (s.pc + 4)
  | .hold => s

/-- SKIP where the condition holds, else NEXT (R146 to R149, R234, R235). -/
def skipIf (c : Bool) : Directive := if c then .skip else .next

/-- An instruction that ends in `NEXT`. -/
def State.nextInsn (s : State) : Result := .next (s.direct .next)

/-! ## Taking a fault (R251, R252) -/

/-- Fault entry: FAULT becomes the record (code, info, pc), pc the PC of the tick; nothing else changes, no mode, no
control transfer (R252). The tick's end restores what the tick itself changed (`endTick`, R133). There is no return from
a fault (R253). -/
def State.takeFault (s : State) (kind : Fault) (info : Nat) : State := s.withFault (some ⟨kind, info, s.pc⟩)

/-! ## The call stack (R140, R141) -/

/-- SP, the number of entries (R13). -/
def State.sp (s : State) : Nat := s.stack.length

/-- `push(v)` (R140): no state where SP = 16. (A longer list, which no run reaches, counts as full: log 13.) -/
def State.push? (s : State) (v : Word) : Option State :=
  if 16 ≤ s.sp then none else some (s.withStack (s.stack ++ [v]))

/-- `pop()` (R141): the newest entry and the state without it; none where SP = 0. -/
def State.pop? (s : State) : Option (Word × State) :=
  match s.stack.getLast? with
  | none => none
  | some v => some (v, s.withStack s.stack.dropLast)

/-! ## Timers (R130) -/

/-- "if `delay_timer > 0` decrement it by 1": a timer at 0 stays 0. -/
def timerDown (t : Byte) : Byte := if t = 0 then 0 else t - 1

/-- `timer_step()` (R130). -/
def State.timerStep (s : State) : State := (s.withDt (timerDown s.dt)).withSt (timerDown s.st)

/-! ## The begin and the end of a tick (R120) -/

/-- `DIRTY <- 0` (R121). -/
def State.beginTick (s : State) : State := s.withDirty false

/-- The end of the tick that began in `s0` and whose instruction left `s`: the timer step (R130); where a fault was raised,
no timer step, and every element other than FAULT as it stood in `s0` (R133). -/
def State.endTick (s0 s : State) : State :=
  match s.fault with
  | some r => s0.withFault (some r)
  | none => s.timerStep

/-! ## Display (R34, R210, R211) -/

/-- `DISP[r][c]` -/
def Display.get (d : Display) (r : Fin 32) (c : Fin 64) : Bool := (d[r.val]'r.isLt)[c.val]'c.isLt

/-- `DISP[r][c] <- p` -/
def Display.put (d : Display) (r : Fin 32) (c : Fin 64) (p : Bool) : Display :=
  d.set r.val ((d[r.val]'r.isLt).set c.val p c.isLt) r.isLt

/-- Every pixel off. -/
def Display.clear : Display := Vector.replicate 32 (Vector.replicate 64 false)

/-- The row of sprite row `j` of a sprite placed at Y (R210). -/
def pixelRow (Y : Byte) (j : Nat) : Fin 32 := ⟨(Y.toNat + j) % 32, Nat.mod_lt _ (by decide)⟩

/-- The column of bit offset `b` of a sprite placed at X (R210). -/
def pixelCol (X : Byte) (b : Nat) : Fin 64 := ⟨(X.toNat + b) % 64, Nat.mod_lt _ (by decide)⟩

/-- Bit offset `b` of a sprite row, 0 the most significant bit: `row[7 - b]` (R213). -/
def spriteBit (row : Byte) (b : Nat) : Bool := row.getLsbD (7 - b)

/-- What a draw carries from pixel to pixel (R213). -/
structure Blit where
  display : Display
  collide : Bool
  toggled : Bool
  deriving DecidableEq, Repr

/-- The toggle of one pixel (R211). -/
def Blit.toggle (m : Blit) (r : Fin 32) (c : Fin 64) : Blit where
  display := m.display.put r c (!m.display.get r c)
  collide := m.collide || m.display.get r c
  toggled := true

/-- Bits `b`, `b + 1`, …, `b + k - 1` of one sprite row at column offset X on display row `r`. -/
def Blit.bits (m : Blit) (X : Byte) (r : Fin 32) (row : Byte) (b : Nat) : Nat → Blit
  | 0 => m
  | k + 1 => Blit.bits (if spriteBit row b then m.toggle r (pixelCol X b) else m) X r row (b + 1) k

/-- The sprite rows `j`, `j + 1`, … in order, each its eight bits, the most significant first (R213). -/
def Blit.rows (m : Blit) (X Y : Byte) (j : Nat) : List Byte → Blit
  | [] => m
  | row :: rest => Blit.rows (m.bits X (pixelRow Y j) row 0 8) X Y (j + 1) rest

/-- The draw of a whole sprite on a display (R213). -/
def blit (d : Display) (X Y : Byte) (rows : List Byte) : Blit := Blit.rows ⟨d, false, false⟩ X Y 0 rows

/-! ## Keys (R36, R230, R236) -/

/-- `KEY[k]`; false for a number that names no key. -/
def State.key (s : State) (k : Nat) : Bool := if h : k < 16 then s.keys[k] else false

/-- `KeyRead(v)` (R230): none where v ≥ 16. -/
def State.keyRead? (s : State) (v : Byte) : Option Bool := if 16 ≤ v.toNat then none else some (s.key v.toNat)

/-- The first pressed key in index order from `k` on, among `n` keys (R236). -/
def State.firstKey (s : State) (k : Nat) : Nat → Option Nat
  | 0 => none
  | n + 1 => if s.key k then some k else State.firstKey s (k + 1) n

/-! ## The random input (R54, R126, R171) -/

/-- `draw RAND`: the next byte of the free stream, and the state that has drawn it. (log 4) -/
def State.drawRand (s : State) : Byte × State := (Config.rand s.draws, s.withDraws (s.draws + 1))

end Sys2Proof.Machine
end

