-- ==== Sys2Proof/Machine/Operands.lean ====
section
/-! DEFINITION. The operand forms: zero-extension (R13, R93), the one addressing mode "index register plus a small
non-negative offset" with its check (`20_memory.md` R64, R65; `43_index_memory.md`), the glyph address (R192), the decimal
digits (R193). -/

namespace Sys2Proof.Machine

/-- `zext_16(v)` (R13): no field is ever sign-extended (R12). -/
def zext16 {w : Nat} (v : BitVec w) : Word := v.setWidth 16

/-- The effective address `I + k`, exact: no wrap modulo 65536, no mask to 12 bits (R64; D13, log 16). -/
def State.effAddr (s : State) (k : Nat) : Nat := s.i.toNat + k

/-- `check(a0 .. a0 + n - 1)`, n > 0 (`43_index_memory.md`; R65): the lowest address of the range that is 4096 or more,
if there is one. For n = 0 there is no address to check (R213). -/
def checkRange (a0 n : Nat) : Option Nat :=
  if 0 < n ∧ 4096 ≤ a0 + n - 1 then some (max a0 4096) else none

/-- An instruction that accesses the `n` bytes from I on: every address is checked before any access or register write
(R65); where all are in bounds the instruction answers `k`. -/
def State.accessing (s : State) (n : Nat) (k : Result) : Result :=
  match checkRange (s.effAddr 0) n with
  | some a => .next (s.takeFault .memOutOfBounds a)
  | none => k

/-- The digit that Fx29 multiplies by 5 (R192). Below 16 the two policies agree and the value is plain; from 16 on it is
what the policy left open says (D14, log 3). -/
def glyphDigit (v : Byte) : Nat :=
  if v.toNat < 16 then v.toNat
  else match Config.glyphAddrPolicy with
    | .unmasked => v.toNat
    | .lowNibble => v.toNat % 16

/-- "glyph *c*'s sprite data starts at address `c * 5`" (R192). -/
def glyphAddr (v : Byte) : Word := BitVec.ofNat 16 (glyphDigit v * 5)

/-- Hundreds, tens and ones (R193). -/
def bcdDigits (v : Byte) : List Byte :=
  [BitVec.ofNat 8 (v.toNat / 100), BitVec.ofNat 8 (v.toNat / 10 % 10), BitVec.ofNat 8 (v.toNat % 10)]

end Sys2Proof.Machine
end

