-- ==== Sys2Proof/Machine/ControlFlow.lean ====
section
/-! DEFINITION. Control transfer: return, jump, call, jump with offset and the register skips (`41_control_flow.md` R142
to R150). -/

namespace Sys2Proof.Machine

/-- 00EE (R142): PC <- pop(); HOLD. STACK_UNDERFLOW where SP = 0, with the PC of the return (R141, R250). -/
def execRet (s : State) : Result :=
  match s.pop? with
  | none => .next (s.takeFault .stackUnderflow s.pc.toNat)
  | some (v, s') => .next ((s'.withPc v).direct .hold)

/-- 1nnn (R143): PC <- zext_16(nnn); HOLD. -/
def execJp (nnn : Addr12) (s : State) : Result := .next ((s.withPc (zext16 nnn)).direct .hold)

/-- 2nnn (R144): push((PC + 2) mod 65536); PC <- zext_16(nnn); HOLD. STACK_OVERFLOW where SP = 16, with the PC of the
call (R140, R250). The pushed value is D9's (log 11). -/
def execCall (nnn : Addr12) (s : State) : Result :=
  match s.push? (s.pc + 2) with
  | none => .next (s.takeFault .stackOverflow s.pc.toNat)
  | some s' => .next ((s'.withPc (zext16 nnn)).direct .hold)

/-- Bnnn (R145): PC <- zext_16(V0) + zext_16(nnn), neither wrapped nor masked; HOLD (D11, log 12). -/
def execJpV0 (nnn : Addr12) (s : State) : Result :=
  .next ((s.withPc (zext16 (s.getV 0) + zext16 nnn)).direct .hold)

/-- 3xnn (R146): SKIP if V[x] = nn, else NEXT. -/
def execSeImm (x : Reg) (nn : Byte) (s : State) : Result := .next (s.direct (skipIf (s.getV x == nn)))

/-- 4xnn (R147): SKIP if V[x] ≠ nn, else NEXT. -/
def execSneImm (x : Reg) (nn : Byte) (s : State) : Result := .next (s.direct (skipIf (s.getV x != nn)))

/-- 5xy0 (R148): SKIP if V[x] = V[y], else NEXT. -/
def execSeReg (x y : Reg) (s : State) : Result := .next (s.direct (skipIf (s.getV x == s.getV y)))

/-- 9xy0 (R149): SKIP if V[x] ≠ V[y], else NEXT. -/
def execSneReg (x y : Reg) (s : State) : Result := .next (s.direct (skipIf (s.getV x != s.getV y)))

end Sys2Proof.Machine
end

