-- ==== Sys2Proof/Machine/IndexMemory.lean ====
section
/-! DEFINITION. Index register and memory instructions (`43_index_memory.md` R190 to R195). -/

namespace Sys2Proof.Machine

/-- Annn (R190): I <- zext_16(nnn). -/
def execLdI (nnn : Addr12) (s : State) : Result := (s.withI (zext16 nnn)).nextInsn

/-- Fx1E (R191): I <- (I + zext_16(V[x])) mod 65536; VF untouched, never a fault. -/
def execAddI (x : Reg) (s : State) : Result := (s.withI (s.i + zext16 (s.getV x))).nextInsn

/-- Fx29 (R192): I <- the address of the glyph. -/
def execLdF (x : Reg) (s : State) : Result := (s.withI (glyphAddr (s.getV x))).nextInsn

/-- Fx33 (R193): the three decimal digits of V[x] at I, I + 1, I + 2. -/
def execLdB (x : Reg) (s : State) : Result :=
  s.accessing 3 (s.withMem (s.mem.writeList (s.effAddr 0) (bcdDigits (s.getV x)))).nextInsn

/-- Fx55 (R194): V0..Vx stored at I..I + x, I unchanged. -/
def execStoreRegs (x : Reg) (s : State) : Result :=
  s.accessing (x.toNat + 1) (s.withMem (s.mem.writeList (s.effAddr 0) (s.getVs 0 (x.toNat + 1)))).nextInsn

/-- Fx65 (R195): V0..Vx loaded from I..I + x, I unchanged. -/
def execLoadRegs (x : Reg) (s : State) : Result :=
  s.accessing (x.toNat + 1) (s.setVs 0 (s.mem.readList (s.effAddr 0) (x.toNat + 1))).nextInsn

end Sys2Proof.Machine
end

