-- ==== Sys2Proof/Machine/Flags.lean ====
section
/-! DEFINITION. The values written to VF as a flag (`10_state.md` R23; `42_register_alu.md` R166 to R170, R173;
`44_display.md` R213). VF is the only flag register; there is no carry-in, borrow-in or overflow flag (R23, R172). -/

namespace Sys2Proof.Machine

/-- A flag is written as 1 or 0 (R173). -/
def flagByte (c : Bool) : Byte := if c then 1 else 0

/-- Carry out of a + b: 1 iff a + b ≥ 256 (R166). -/
def carryFlag (a b : Byte) : Byte := flagByte (decide (256 ≤ a.toNat + b.toNat))

/-- NOT borrow of a - b: 1 iff a ≥ b (R167, R169). -/
def noBorrowFlag (a b : Byte) : Byte := flagByte (decide (b.toNat ≤ a.toNat))

/-- The bit a right shift moves out, the old bit 0 (R168). -/
def shiftedOutLow (a : Byte) : Byte := flagByte (a.getLsbD 0)

/-- The bit a left shift moves out, the old bit 7 (R170). -/
def shiftedOutHigh (a : Byte) : Byte := flagByte (a.getLsbD 7)

/-- 1 iff at least one pixel went from on to off (R213). -/
def collisionFlag (collide : Bool) : Byte := flagByte collide

end Sys2Proof.Machine
end

