-- ==== Sys2Proof/Machine/Raster.lean ====
section
/-! DEFINITION. The XOR-blit raster engine's two instructions (`44_display.md` R212, R213). -/

namespace Sys2Proof.Machine

/-- 00E0 (R212): every pixel off, DIRTY set always (D16, log 17). VF is not written. -/
def execCls (s : State) : Result := ((s.withDisplay Display.clear).withDirty true).nextInsn

/-- The n sprite rows at I, read in ascending order (R69, R213). -/
def State.spriteRows (s : State) (n : Nibble) : List Byte := s.mem.readList (s.effAddr 0) n.toNat

/-- The draw that Dxyn makes: the sprite at (V[x], V[y]), both read before VF is written (R213). -/
def State.draw (s : State) (x y : Reg) (n : Nibble) : Blit := blit s.display (s.getV x) (s.getV y) (s.spriteRows n)

/-- Dxyn (R213): the check of all rows' addresses, the draw, VF <- collision, DIRTY set if a pixel was toggled. -/
def execDrw (x y : Reg) (n : Nibble) (s : State) : Result :=
  s.accessing n.toNat
    (((s.withDisplay (s.draw x y n).display).setVF (collisionFlag (s.draw x y n).collide)).withDirty
      ((s.draw x y n).toggled || s.dirty)).nextInsn

end Sys2Proof.Machine
end

