-- ==== Sys2Proof/Machine/RegisterAlu.lean ====
section
/-! DEFINITION. Register file and ALU instructions (`42_register_alu.md` R160 to R171). Every operand is read before any
write, and a flag is written after the result (R14, R24, R173). -/

namespace Sys2Proof.Machine

/-- V[x] <- result; VF <- flag, written last; NEXT (R24, R166 to R170). -/
def State.aluFlag (s : State) (x : Reg) (result flag : Byte) : Result := ((s.setV x result).setVF flag).nextInsn

/-- V[x] <- result; NEXT, no flag (R160 to R165, R171). -/
def State.aluPlain (s : State) (x : Reg) (result : Byte) : Result := (s.setV x result).nextInsn

/-- 6xnn (R160): V[x] <- nn. -/
def execLdImm (x : Reg) (nn : Byte) (s : State) : Result := s.aluPlain x nn

/-- 7xnn (R161): V[x] <- (V[x] + nn) mod 256, no flag. -/
def execAddImm (x : Reg) (nn : Byte) (s : State) : Result := s.aluPlain x (s.getV x + nn)

/-- 8xy0 (R162): V[x] <- V[y]. -/
def execLdReg (x y : Reg) (s : State) : Result := s.aluPlain x (s.getV y)

/-- 8xy1 (R163): V[x] <- V[x] | V[y], VF not written as a flag (D7, log 10). -/
def execOrReg (x y : Reg) (s : State) : Result := s.aluPlain x (s.getV x ||| s.getV y)

/-- 8xy2 (R164): V[x] <- V[x] & V[y], VF not written as a flag (D7, log 10). -/
def execAndReg (x y : Reg) (s : State) : Result := s.aluPlain x (s.getV x &&& s.getV y)

/-- 8xy3 (R165): V[x] <- V[x] ^ V[y], VF not written as a flag (D7, log 10). -/
def execXorReg (x y : Reg) (s : State) : Result := s.aluPlain x (s.getV x ^^^ s.getV y)

/-- 8xy4 (R166): V[x] <- (a + b) mod 256; VF <- carry. -/
def execAddReg (x y : Reg) (s : State) : Result :=
  s.aluFlag x (s.getV x + s.getV y) (carryFlag (s.getV x) (s.getV y))

/-- 8xy5 (R167): V[x] <- (a - b) mod 256; VF <- (a ≥ b). -/
def execSubReg (x y : Reg) (s : State) : Result :=
  s.aluFlag x (s.getV x - s.getV y) (noBorrowFlag (s.getV x) (s.getV y))

/-- 8xy6 (R168): V[x] <- a >> 1; VF <- a & 1. V[y] is not read (D5, D8, log 10). -/
def execShr (x _y : Reg) (s : State) : Result := s.aluFlag x (s.getV x >>> 1) (shiftedOutLow (s.getV x))

/-- 8xy7 (R169): V[x] <- (b - a) mod 256; VF <- (b ≥ a). -/
def execSubn (x y : Reg) (s : State) : Result :=
  s.aluFlag x (s.getV y - s.getV x) (noBorrowFlag (s.getV y) (s.getV x))

/-- 8xyE (R170): V[x] <- (a << 1) mod 256; VF <- a >> 7. V[y] is not read (D5, D8, log 10). -/
def execShl (x _y : Reg) (s : State) : Result := s.aluFlag x (s.getV x <<< 1) (shiftedOutHigh (s.getV x))

/-- V[x] <- r & nn for a drawn byte r (R171). -/
def State.randAnd (s : State) (x : Reg) (nn r : Byte) : Result := s.aluPlain x (r &&& nn)

/-- Cxnn (R171): draws one byte, V[x] <- r & nn. The byte is free (D18, log 4). -/
def execRnd (x : Reg) (nn : Byte) (s : State) : Result := s.drawRand.2.randAnd x nn s.drawRand.1

end Sys2Proof.Machine
end

