-- ==== Sys2Proof/Machine/TimersKeys.lean ====
section
/-! DEFINITION. Timer array and key-state instructions (`45_timers_keys.md` R231 to R236). The timer step of the same tick
follows each of them (`40_cycle.md` R131). -/

namespace Sys2Proof.Machine

/-- Fx07 (R231): V[x] <- DT, as it stands before this tick's timer step. -/
def execLdVxDt (x : Reg) (s : State) : Result := (s.setV x s.dt).nextInsn

/-- Fx15 (R232): DT <- V[x]. -/
def execLdDtVx (x : Reg) (s : State) : Result := (s.withDt (s.getV x)).nextInsn

/-- Fx18 (R233): ST <- V[x]. -/
def execLdStVx (x : Reg) (s : State) : Result := (s.withSt (s.getV x)).nextInsn

/-- A skip on the state of the key that V[x] names; KEY_OUT_OF_BOUNDS where V[x] names none (R230; D15, log 18). -/
def State.skipOnKey (s : State) (x : Reg) (pressed : Bool) : Result :=
  match s.keyRead? (s.getV x) with
  | none => .next (s.takeFault .keyOutOfBounds (s.getV x).toNat)
  | some k => .next (s.direct (skipIf (k == pressed)))

/-- Ex9E (R234): SKIP if the key V[x] is pressed, else NEXT. -/
def execSkp (x : Reg) (s : State) : Result := s.skipOnKey x true

/-- ExA1 (R235): SKIP if the key V[x] is not pressed, else NEXT. -/
def execSknp (x : Reg) (s : State) : Result := s.skipOnKey x false

/-- Fx0A (R236): the lowest pressed key into V[x] and NEXT; with no key pressed HOLD, PC unchanged. -/
def execLdVxK (x : Reg) (s : State) : Result :=
  match s.firstKey 0 16 with
  | some k => (s.setV x (BitVec.ofNat 8 k)).nextInsn
  | none => .next (s.direct .hold)

end Sys2Proof.Machine
end

