-- ==== Sys2Proof/Machine/Tick.lean ====
section
/-! DEFINITION. The tick (`40_cycle.md` R120): fetch (R122), decode (R123), execute (R124), the timer step (R130), the
fault entry (R133) and the sticky fault (R134); and the placing of one opcode where the next tick fetches it. -/

namespace Sys2Proof.Machine

/-- `fetch()` (R122): the two bytes at PC and PC + 1, the first at the lower address; none where PC + 1 ≥ 4096. Fetch does
not change PC. -/
def State.fetch? (s : State) : Option (List Byte) :=
  if 4096 ≤ s.pc.toNat + 1 then none else some [s.mem.read s.pc.toNat, s.mem.read (s.pc.toNat + 1)]

/-- What fetch and decode give a tick: an instruction, or the fault to take (R122, R123, R254: fetch before decode). -/
inductive Fetched where
  | insn (i : Instr)
  | raised (kind : Fault) (info : Nat)
  deriving DecidableEq, Repr

/-- Fetch, then decode. (Two bytes are never too few, so the last case is not reached; it is a decode error.) -/
def State.fetchDecode (s : State) : Fetched :=
  match s.fetch? with
  | none => .raised .fetchOutOfBounds s.pc.toNat
  | some bytes =>
    match decode bytes with
    | .insn i => .insn i
    | .illegal op => .raised .decodeError op.toNat
    | .truncated => .raised .decodeError 0

/-- The tick of a block with no fault: DIRTY <- 0, fetch, decode, execute, timer step; a fault raised anywhere in it leaves
every element but FAULT as it stood before the tick (R120, R133). -/
def State.runTick (s : State) : Result :=
  match s.beginTick.fetchDecode with
  | .raised kind info => .next (s.endTick (s.beginTick.takeFault kind info))
  | .insn i =>
    match exec i s.beginTick with
    | .next t => .next (s.endTick t)
    | .fault r => .fault r
    | .refused r => .refused r

/-- `tick()` (R120): a block with a fault changes nothing (R134). -/
def State.tick (s : State) : Result :=
  match s.fault with
  | some _ => .next s
  | none => s.runTick

/-- Where the next tick can fetch: PC, or 0x200 where PC names no two bytes of memory. -/
def State.fetchPlace (s : State) : Word := if 4096 ≤ s.pc.toNat + 1 then 0x200 else s.pc

/-- The state with the opcode `op` stored where the next tick fetches. A block with a fault does not fetch, and a PC of
0xFFF or more cannot be fetched from: FAULT is cleared and such a PC moved to 0x200 (log 8); nothing else changes. -/
def State.placeOpcode (s : State) (op : Word) : State :=
  ((s.withMem (s.mem.writeList s.fetchPlace.toNat [highByte op, lowByte op])).withPc s.fetchPlace).withFault none

end Sys2Proof.Machine
end

