-- ==== Sys2Proof/Machine/Step.lean ====
section
/-! DEFINITION. One step of the machine is one tick (`40_cycle.md` R120). -/

namespace Sys2Proof.Machine

/-- One tick (R120). -/
def step (s : State) : Host.Outcome State Fault Refusal := s.tick

/-- `s` with the opcode whose bits are those of `w` (numbered as `spec/opcode_table.json` numbers them) stored where `step`
fetches its next instruction. It stands for the host's load of a program (R70; log 8). -/
def State.withFetchWord (s : State) (nbits w : Nat) : State := s.placeOpcode (tableOpcode nbits w)

end Sys2Proof.Machine
end

