-- ==== Sys2Proof/Machine/HostPort.lean ====
section
/-! DEFINITION. The block interface (`10_state.md` R50 to R58; `20_memory.md` R70; `60_exceptions.md` R264): what the host
does to the block between ticks, and what it can observe. -/

namespace Sys2Proof.Machine

/-- `load(bytes)` (R70): the bytes from 0x200 on, those after the first 3584 ignored. When the host may load is R264's
(log 8). -/
def State.load (s : State) (bytes : List Byte) : State := s.withMem (s.mem.writeList 0x200 (bytes.take 3584))

/-- The host sets one key state (R53). -/
def State.setKey (s : State) (k : Fin 16) (pressed : Bool) : State := s.withKeys (s.keys.set k.val pressed k.isLt)

/-- The output ports (R55 to R58). -/
structure Outputs where
  display : Display
  dirty : Bool
  fault : Option FaultRecord
  soundTimer : Byte
  deriving DecidableEq, Repr

/-- What the host reads between ticks (R55 to R58, R264). -/
def State.outputs (s : State) : Outputs := ⟨s.display, s.dirty, s.fault, s.st⟩

/-- The inputs of R50 to R53. (`rand`, R54, is the free stream of `Config.rand`.) -/
inductive HostMove where
  | reset
  | load (bytes : List Byte)
  | setKey (k : Fin 16) (pressed : Bool)
  | tick
  deriving DecidableEq, Repr

/-- What each input does (R50 to R53). -/
def hostMove (m : HostMove) (s : State) : Result :=
  match m with
  | .reset => .next State.reset
  | .load bytes => .next (s.load bytes)
  | .setKey k pressed => .next (s.setKey k pressed)
  | .tick => step s

end Sys2Proof.Machine
end

