-- ==== Sys2Proof/Safety.lean ====
section
/-! DEFINITION. The terms that claims use: the parts of the state and which of them an instruction may write (the frame),
the legal states, and the runs a host can make. -/

namespace Sys2Proof.Machine

/-! ## Frames -/

/-- One part of the state. -/
inductive Part where
  | v (z : Reg)
  | pc
  | i
  | stack
  | dt
  | st
  | byte (a : Nat)
  | pixel (r : Fin 32) (c : Fin 64)
  | dirty
  | key (k : Nat)
  | fault
  | draws
  deriving DecidableEq, Repr

/-- The part `p` is the same in `t` as in `s`; a byte of memory is compared through the read of one byte. -/
def Part.same (p : Part) (s t : State) : Prop :=
  match p with
  | .v z => t.getV z = s.getV z
  | .pc => t.pc = s.pc
  | .i => t.i = s.i
  | .stack => t.stack = s.stack
  | .dt => t.dt = s.dt
  | .st => t.st = s.st
  | .byte a => t.mem.read a = s.mem.read a
  | .pixel r c => t.display.get r c = s.display.get r c
  | .dirty => t.dirty = s.dirty
  | .key k => t.key k = s.key k
  | .fault => t.fault = s.fault
  | .draws => t.draws = s.draws

/-- The parts that the rule of an instruction lets it write, its directive's PC and its possible fault among them. The
bytes that Fx33 and Fx55 store to are the effective addresses I + k of their rules (R193, R194). -/
def mayWrite (ins : Instr) (s : State) (p : Part) : Prop :=
  match ins with
  | .cls => p = .pc ∨ p = .dirty ∨ ∃ r c, p = .pixel r c
  | .ret => p = .pc ∨ p = .stack ∨ p = .fault
  | .jp _ => p = .pc
  | .call _ => p = .pc ∨ p = .stack ∨ p = .fault
  | .seImm _ _ => p = .pc
  | .sneImm _ _ => p = .pc
  | .seReg _ _ => p = .pc
  | .ldImm x _ => p = .pc ∨ p = .v x
  | .addImm x _ => p = .pc ∨ p = .v x
  | .ldReg x _ => p = .pc ∨ p = .v x
  | .orReg x _ => p = .pc ∨ p = .v x
  | .andReg x _ => p = .pc ∨ p = .v x
  | .xorReg x _ => p = .pc ∨ p = .v x
  | .addReg x _ => p = .pc ∨ p = .v x ∨ p = .v 0xF
  | .subReg x _ => p = .pc ∨ p = .v x ∨ p = .v 0xF
  | .shr x _ => p = .pc ∨ p = .v x ∨ p = .v 0xF
  | .subn x _ => p = .pc ∨ p = .v x ∨ p = .v 0xF
  | .shl x _ => p = .pc ∨ p = .v x ∨ p = .v 0xF
  | .sneReg _ _ => p = .pc
  | .ldI _ => p = .pc ∨ p = .i
  | .jpV0 _ => p = .pc
  | .rnd x _ => p = .pc ∨ p = .v x ∨ p = .draws
  | .drw _ _ _ => p = .pc ∨ p = .v 0xF ∨ p = .dirty ∨ p = .fault ∨ ∃ r c, p = .pixel r c
  | .skp _ => p = .pc ∨ p = .fault
  | .sknp _ => p = .pc ∨ p = .fault
  | .ldVxDt x => p = .pc ∨ p = .v x
  | .ldVxK x => p = .pc ∨ p = .v x
  | .ldDtVx _ => p = .pc ∨ p = .dt
  | .ldStVx _ => p = .pc ∨ p = .st
  | .addI _ => p = .pc ∨ p = .i
  | .ldF _ => p = .pc ∨ p = .i
  | .ldB _ => p = .pc ∨ p = .fault ∨ ∃ k, k < 3 ∧ p = .byte (s.effAddr k)
  | .storeRegs x => p = .pc ∨ p = .fault ∨ ∃ k, k ≤ x.toNat ∧ p = .byte (s.effAddr k)
  | .loadRegs x => p = .pc ∨ p = .fault ∨ ∃ z : Reg, z.toNat ≤ x.toNat ∧ p = .v z

/-- The families of the opcode map, by the file of `spec/` that gives their rules. -/
inductive Family where
  | control      -- 41_control_flow.md
  | alu          -- 42_register_alu.md
  | index        -- 43_index_memory.md, no memory access
  | memory       -- 43_index_memory.md, with memory accesses
  | display      -- 44_display.md
  | timersKeys   -- 45_timers_keys.md
  deriving DecidableEq, Repr

/-- The family of an instruction. -/
def family (ins : Instr) : Family :=
  match ins with
  | .ret | .jp _ | .call _ | .seImm _ _ | .sneImm _ _ | .seReg _ _ | .sneReg _ _ | .jpV0 _ => .control
  | .ldImm _ _ | .addImm _ _ | .ldReg _ _ | .orReg _ _ | .andReg _ _ | .xorReg _ _ | .addReg _ _ | .subReg _ _
  | .shr _ _ | .subn _ _ | .shl _ _ | .rnd _ _ => .alu
  | .ldI _ | .addI _ | .ldF _ => .index
  | .ldB _ | .storeRegs _ | .loadRegs _ => .memory
  | .cls | .drw _ _ _ => .display
  | .skp _ | .sknp _ | .ldVxDt _ | .ldVxK _ | .ldDtVx _ | .ldStVx _ => .timersKeys

/-- The conditional skips (R129, "NEXT or SKIP"). -/
def isSkip (ins : Instr) : Bool :=
  match ins with
  | .seImm _ _ | .sneImm _ _ | .seReg _ _ | .sneReg _ _ | .skp _ | .sknp _ => true
  | _ => false

/-- How many bytes from I on an instruction accesses (R69). -/
def accessCount (ins : Instr) : Nat :=
  match ins with
  | .drw _ _ n => n.toNat
  | .ldB _ => 3
  | .storeRegs x => x.toNat + 1
  | .loadRegs x => x.toNat + 1
  | _ => 0

/-- A set bit of the n sprite rows at I, placed at (V[x], V[y]), lands on pixel (r, c): bit offset b of row j at column
(V[x] + b) mod 64 and row (V[y] + j) mod 32 (R210). -/
def State.spriteHits (s : State) (x y : Reg) (n : Nibble) (r : Fin 32) (c : Fin 64) : Prop :=
  ∃ j b, j < n.toNat ∧ b < 8 ∧ (s.mem.read (s.effAddr j)).getLsbD (7 - b) = true ∧
    r.val = ((s.getV y).toNat + j) % 32 ∧ c.val = ((s.getV x).toNat + b) % 64

/-! ## Legal states -/

/-- The record `r` says what is the matter in the state it stands in (R250, R251): its pc is PC, and its information is
what the kind's row of R250 records. -/
def FaultRecord.explains (r : FaultRecord) (s : State) : Prop :=
  r.pc = s.pc ∧
    match r.kind with
    | .decodeError => s.fetchDecode = .raised .decodeError r.info
    | .stackOverflow => s.sp = 16 ∧ r.info = s.pc.toNat
    | .stackUnderflow => s.sp = 0 ∧ r.info = s.pc.toNat
    | .fetchOutOfBounds => 4096 ≤ s.pc.toNat + 1 ∧ r.info = s.pc.toNat
    | .memOutOfBounds => r.info = max s.i.toNat 4096
    | .keyOutOfBounds => 16 ≤ r.info ∧ ∃ x, (s.getV x).toNat = r.info

/-- The legal states: memory in canonical form; at most 16 stack entries (R30), each at most 0x1000 (R144, D10); PC at most
0x10FE, the farthest a jump with offset reaches, so that PC never wraps (R27, R145); and a fault record, where there is
one, that explains the state it stands in (R251). -/
structure State.Inv (s : State) : Prop where
  memory : s.mem.wf = true
  depth : s.sp ≤ 16
  entries : ∀ e ∈ s.stack, e.toNat ≤ 0x1000
  pcRange : s.pc.toNat ≤ 0x10FE
  record : ∀ r, s.fault = some r → r.explains s

/-! ## Runs -/

/-- The states a host can bring the block to (R264, R265, R283): reset, one load before the first tick, then ticks, with
key changes between them. (Another reset begins again with `boot`; a run without a load is one that loads no byte.) -/
inductive Reachable : State → Prop where
  | boot (bytes : List Byte) : Reachable (State.reset.load bytes)
  | tick (s t : State) : Reachable s → step s = .next t → Reachable t
  | setKey (s : State) (k : Fin 16) (pressed : Bool) : Reachable s → Reachable (s.setKey k pressed)

/-- A safe run: no fault has been taken (R252). -/
def State.faultFree (s : State) : Bool := s.fault.isNone

end Sys2Proof.Machine
end

