-- ==== Sys2Proof/WellFormed.lean ====
section
/-! DEFINITION. Well-formedness. Every term of `Instr` is well formed by its types: a register operand has 4 bits, an
immediate the bits of its field (`10_state.md` R21, `30_encoding.md` R93), so nothing is left to check on it. What can be
ill formed is an OPCODE WORD: the checks below are the illegal space of `30_encoding.md` R98, written from that table of
number ranges and not from the opcode map R94 that the decoder is written from; that the two agree is a statement. -/

namespace Sys2Proof

/-- R98, row 1: 0x0000–0x0FFF is illegal except 00E0 and 00EE. -/
def WellFormed.family0 (op : Word) : Bool := 0x1000 ≤ op.toNat || op.toNat == 0x00E0 || op.toNat == 0x00EE

/-- R98, rows 2 and 4: a word of family `f` (5 or 9) with a lowest nibble other than 0 is illegal. -/
def WellFormed.family59 (f : Nat) (op : Word) : Bool := op.toNat / 0x1000 != f || op.toNat % 16 == 0

/-- R98, row 3: 8xyN with N in 8..D or F is illegal. -/
def WellFormed.family8 (op : Word) : Bool := op.toNat / 0x1000 != 8 || op.toNat % 16 < 8 || op.toNat % 16 == 0xE

/-- R98, row 5: ExNN with NN not 9E or A1 is illegal. -/
def WellFormed.familyE (op : Word) : Bool :=
  op.toNat / 0x1000 != 0xE || op.toNat % 256 == 0x9E || op.toNat % 256 == 0xA1

/-- R98, row 6: FxNN with NN not one of the nine listed is illegal. -/
def WellFormed.familyF (op : Word) : Bool :=
  op.toNat / 0x1000 != 0xF ||
    [0x07, 0x0A, 0x15, 0x18, 0x1E, 0x29, 0x33, 0x55, 0x65].contains (op.toNat % 256)

/-- An opcode word outside the illegal space of R98. -/
def WellFormed.opcode (op : Word) : Bool :=
  WellFormed.family0 op && WellFormed.family59 5 op && WellFormed.family8 op && WellFormed.family59 9 op &&
    WellFormed.familyE op && WellFormed.familyF op

end Sys2Proof
end

