-- ==== Sys2Proof/Certificates/Slice0/Obligations.lean ====
section
/-! DEFINITION. The statements for the provers. `R<n>` are the rules of `spec/`, `D<n>` its own decisions: a statement that
rests on a decision, on the spec's general knowledge or on an inference of the spec says so and is listed as derived. After
a fault nothing is claimed of memory, V or DISP where the faulting instruction could have written them (D3). -/

open Sys2Proof Sys2Proof.Machine

/-! ## Encoding -/

/-- Decoding the two bytes of the encoding of any instruction, whatever bytes follow, gives the instruction back: no bit of
an operand is dropped (R92, R94). -/
def Obligations.DecodeOfEncode : Prop :=
  ∀ (ins : Instr) (rest : List Byte), decode (highByte (encode ins) :: lowByte (encode ins) :: rest) = .insn ins

/-- An opcode that decodes is the encoding of the instruction it decodes to: each opcode has one meaning and each
instruction one opcode (R92, R94). -/
def Obligations.EncodeOfDecode : Prop :=
  ∀ (op : Word) (ins : Instr), decodeOp op = .insn ins → encode ins = op

/-- R97: the decoder answers the instruction of the row an opcode selects, with that row's fields, WHICHEVER row of the
table that is (so no two rows disagree), and DECODE_ERROR with the opcode where no row is selected. -/
def Obligations.DecoderFollowsOpcodeTable : Prop :=
  opcodeTable.length = 34 ∧
  ∀ op : Word,
    (∀ row ∈ opcodeTable, op &&& row.mask = row.pat → decodeOp op = .insn (row.build op)) ∧
    ((∀ row ∈ opcodeTable, op &&& row.mask ≠ row.pat) → decodeOp op = .illegal op)

/-- R98's table of the illegal space, written there as ranges of numbers (and here in `WellFormed.opcode`), is exactly what
the decoder rejects; R98 marks the table as its own inference from R94. -/
def Obligations.IllegalOpcodesAreExactlyTheListedOnes : Prop :=
  ∀ op : Word, (decodeOp op = .illegal op ↔ WellFormed.opcode op = false) ∧
    (WellFormed.opcode op = true → ∃ ins, decodeOp op = .insn ins)

/-- Words written out from the encodings of R94, one of each family and two illegal ones (a sanity statement). -/
def Obligations.SampleOpcodesDecode : Prop :=
  decode [0b00010010#8, 0b00110100#8] = .insn (.jp 0x234) ∧
  decode [0b01101010#8, 0b11111110#8] = .insn (.ldImm 0xA 0xFE) ∧
  decode [0b10000001#8, 0b00100101#8] = .insn (.subReg 1 2) ∧
  decode [0b10101111#8, 0b00000001#8] = .insn (.ldI 0xF01) ∧
  decode [0b11110011#8, 0b01010101#8] = .insn (.storeRegs 3) ∧
  decode [0b11010101#8, 0b01101111#8] = .insn (.drw 5 6 15) ∧
  decode [0b11100111#8, 0b10100001#8] = .insn (.sknp 7) ∧
  decode [0b00000001#8, 0b00100011#8] = .illegal 0x0123 ∧
  decode [0b10000001#8, 0b00101000#8] = .illegal 0x8128

/-! ## The tick -/

/-- A step runs the decoded instruction: on a block without a fault whose two bytes at PC decode to `ins`, the step is
`exec ins` on the state with DIRTY cleared, then, where no fault was raised, both timers down by one (not below 0) (R120).
Where one was raised, the step has that fault, with PC, I, the stack, the timers, DIRTY and the keys of before the tick; and
where `ins` may write none of memory, V or DISP (2nnn, 00EE, Ex9E, ExA1), the step is the state of before the tick with
FAULT set (R133, decision D3, which forbids to say what a faulting Fx33, Fx55, Fx65 or Dxyn leaves in those). -/
def Obligations.StepRunsDecodedInstruction : Prop :=
  ∀ (s t : State) (ins : Instr), s.fault = none → s.pc.toNat + 1 < 4096 →
    decode [s.mem.read s.pc.toNat, s.mem.read (s.pc.toNat + 1)] = .insn ins →
    exec ins (s.withDirty false) = .next t →
    (t.fault = none → step s = .next ((t.withDt (timerDown t.dt)).withSt (timerDown t.st))) ∧
    (∀ r, t.fault = some r → ∃ u, step s = .next u ∧ u.fault = some r ∧ u.pc = s.pc ∧ u.i = s.i ∧ u.stack = s.stack ∧
      u.dt = s.dt ∧ u.st = s.st ∧ u.dirty = s.dirty ∧ ∀ k, u.key k = s.key k) ∧
    (∀ r, t.fault = some r → (∀ p, mayWrite ins s p → p = .pc ∨ p = .stack ∨ p = .fault) →
      step s = .next (s.withFault (some r)))

/-- R122: fetch combines the bytes at PC and PC + 1, the first one high, and does not change PC; where PC + 1 ≥ 4096 the
tick raises FETCH_OUT_OF_BOUNDS with PC. -/
def Obligations.FetchIsBigEndianAndBounded : Prop :=
  ∀ s : State,
    (s.pc.toNat + 1 < 4096 → ∃ hi lo, s.fetch? = some [hi, lo] ∧
      (opcodeOf hi lo).toNat = (s.mem.read s.pc.toNat).toNat * 256 + (s.mem.read (s.pc.toNat + 1)).toNat) ∧
    (s.fault = none → 4096 ≤ s.pc.toNat + 1 → ∃ t r, step s = .next t ∧ t.fault = some r ∧
      r.kind = .fetchOutOfBounds ∧ r.info = s.pc.toNat ∧ t.pc = s.pc)

/-- R123: decode selects the instruction of the opcode's row; an opcode that selects no row raises DECODE_ERROR with the
opcode as information, before any state changes (so nothing but FAULT differs after the tick). -/
def Obligations.DecodeErrorCarriesOpcode : Prop :=
  ∀ (s : State) (hi lo : Byte), s.fetch? = some [hi, lo] →
    (∀ row ∈ opcodeTable, opcodeOf hi lo &&& row.mask = row.pat →
      s.fetchDecode = .insn (row.build (opcodeOf hi lo))) ∧
    (s.fault = none → (∀ row ∈ opcodeTable, opcodeOf hi lo &&& row.mask ≠ row.pat) →
      ∃ r, step s = .next (s.withFault (some r)) ∧ r.kind = .decodeError ∧ r.info = (opcodeOf hi lo).toNat)

/-- A tick of a block with a fault changes nothing (R134, decision D3). -/
def Obligations.FaultIsSticky : Prop :=
  ∀ (s : State) (r : FaultRecord), s.fault = some r → step s = .next s

/-- After a tick that raised a fault: the record's pc is the PC of before the tick, and PC, I, the stack, both timers, DIRTY
and the keys are as before it: no directive, no timer step (R133, R252, decision D3). Nothing is said of memory, V and DISP:
D3 forbids it, since the reference may have written part of them. -/
def Obligations.FaultingTickRestoresState : Prop :=
  ∀ (s t : State) (r : FaultRecord), s.fault = none → step s = .next t → t.fault = some r →
    r.pc = s.pc ∧ t.pc = s.pc ∧ t.i = s.i ∧ t.stack = s.stack ∧ t.dt = s.dt ∧ t.st = s.st ∧ t.dirty = s.dirty ∧
      ∀ k, t.key k = s.key k

/-- Each kind of fault is raised by what R250 names, when R250 says, with the information R250 records; fetch comes before
decode and decode before execute (R254, decisions D4, D13, D15, D26). -/
def Obligations.EachFaultHasItsRaiser : Prop :=
  ∀ (s t : State) (r : FaultRecord), s.fault = none → step s = .next t → t.fault = some r →
    match r.kind with
    | .fetchOutOfBounds => 4096 ≤ s.pc.toNat + 1 ∧ r.info = s.pc.toNat
    | .decodeError => s.pc.toNat + 1 < 4096 ∧ ∃ op : Word, WellFormed.opcode op = false ∧ r.info = op.toNat ∧
        op.toNat = (s.mem.read s.pc.toNat).toNat * 256 + (s.mem.read (s.pc.toNat + 1)).toNat
    | .stackOverflow => (∃ nnn, s.fetchDecode = .insn (.call nnn)) ∧ 16 ≤ s.sp ∧ r.info = s.pc.toNat
    | .stackUnderflow => s.fetchDecode = .insn .ret ∧ s.sp = 0 ∧ r.info = s.pc.toNat
    | .memOutOfBounds => ∃ ins, s.fetchDecode = .insn ins ∧ 0 < accessCount ins ∧
        4096 < s.i.toNat + accessCount ins ∧ r.info = max s.i.toNat 4096
    | .keyOutOfBounds => ∃ x, (s.fetchDecode = .insn (.skp x) ∨ s.fetchDecode = .insn (.sknp x)) ∧
        16 ≤ (s.getV x).toNat ∧ r.info = (s.getV x).toNat

/-- R130, R131: whichever instruction ran, a tick that raises no fault takes each timer that the instruction left above 0
down by one, and leaves one it left at 0 (Nat subtraction stops at 0). -/
def Obligations.TimerStepFollowsTheInstruction : Prop :=
  ∀ (s u : State) (ins : Instr), s.fault = none → s.fetchDecode = .insn ins → exec ins (s.withDirty false) = .next u →
    u.fault = none → ∃ t, step s = .next t ∧ t.dt.toNat = u.dt.toNat - 1 ∧ t.st.toNat = u.st.toNat - 1

/-- Every tick that raises no fault takes each timer down by one where it is above 0, whichever instruction ran,
a waiting Fx0A included; after Fx15 or Fx18 it is the value just written that goes down (R130, and the spec's own inference in R131; that
Fx15 and Fx18 write DT and ST is general knowledge, R96, log 9). -/
def Obligations.TimersStepEveryTick : Prop :=
  ∀ (s t : State) (ins : Instr), s.fault = none → s.fetchDecode = .insn ins → step s = .next t → t.fault = none →
    (∀ x, ins = .ldDtVx x → t.dt.toNat = (s.getV x).toNat - 1) ∧
    ((∀ x, ins ≠ .ldDtVx x) → t.dt.toNat = s.dt.toNat - 1) ∧
    (∀ x, ins = .ldStVx x → t.st.toNat = (s.getV x).toNat - 1) ∧
    ((∀ x, ins ≠ .ldStVx x) → t.st.toNat = s.st.toNat - 1)

/-- DIRTY at the end of a tick without a fault, whatever it was before: 1 exactly if the tick ran 00E0 (always, decision
D16) or a Dxyn one of whose sprite rows has a set bit (R35, R121, R212, R216). -/
def Obligations.DirtyAtTheEndOfATick : Prop :=
  ∀ (s t : State) (ins : Instr), s.fault = none → s.fetchDecode = .insn ins → step s = .next t → t.fault = none →
    (t.dirty = true ↔
      ins = .cls ∨ ∃ x y n, ins = .drw x y n ∧ ∃ j, j < n.toNat ∧ s.mem.read (s.effAddr j) ≠ 0)

/-- Every step of every state answers a next state: no instruction is refused, and every fault of the spec is taken as a
state with FAULT set (R250, R252; the model's reading, log 1). -/
def Obligations.EveryStepAnswersANextState : Prop :=
  ∀ s : State, ∃ t, step s = .next t

/-! ## Legal states and runs -/

/-- The legal states (`State.Inv`: canonical memory, at most 16 stack entries of at most 0x1000, PC at most 0x10FE, a fault
record that explains its state) are kept by every step (R27, R30, R140, R144, R145, R251; decisions D9, D10, D11). -/
def Obligations.StepKeepsLegalStates : Prop :=
  ∀ s t : State, s.Inv → step s = .next t → t.Inv

/-- The state after reset is legal. -/
def Obligations.ResetIsLegal : Prop := State.reset.Inv

/-- Every state that a host can bring the block to, by reset, one load of any bytes, ticks and key changes, is legal
(R264, R265, R283; decision D29). -/
def Obligations.ReachableStatesAreLegal : Prop :=
  ∀ s : State, Reachable s → s.Inv

/-- R280: the state after reset, element by element. -/
def Obligations.ResetState : Prop :=
  (∀ a, (h : a < 80) → State.reset.mem.read a = Config.glyphTable[a]) ∧
  (∀ a, 80 ≤ a → a < 4096 → State.reset.mem.read a = 0) ∧
  (∀ x, State.reset.getV x = 0) ∧ State.reset.i = 0 ∧ State.reset.pc = 0x200 ∧ State.reset.sp = 0 ∧
  State.reset.dt = 0 ∧ State.reset.st = 0 ∧ (∀ r c, State.reset.display.get r c = false) ∧
  State.reset.dirty = false ∧ (∀ k, State.reset.key k = false) ∧ State.reset.fault = none

/-- R70: load puts byte j of the input at 0x200 + j for j below 3584 and the input's length, leaves every other address
as it was, ignores the bytes beyond index 3583, and touches nothing but memory. -/
def Obligations.LoadFillsFrom0x200 : Prop :=
  ∀ (s : State) (bytes : List Byte), s.mem.wf = true →
    (∀ j, (h : j < bytes.length) → j < 3584 → (s.load bytes).mem.read (0x200 + j) = bytes[j]) ∧
    (∀ a, a < 0x200 ∨ 0x200 + min bytes.length 3584 ≤ a → (s.load bytes).mem.read a = s.mem.read a) ∧
    s.load bytes = s.withMem (s.load bytes).mem ∧ (s.load bytes).mem.wf = true

/-- R36, R53: the host sets one key state and nothing else, and no tick changes a key state. -/
def Obligations.KeysAreTheHosts : Prop :=
  (∀ (s : State) (k : Fin 16) (pressed : Bool), (s.setKey k pressed).key k.val = pressed ∧
    (∀ j, j ≠ k.val → (s.setKey k pressed).key j = s.key j) ∧
    s.setKey k pressed = s.withKeys (s.setKey k pressed).keys) ∧
  (∀ s t : State, step s = .next t → ∀ j, t.key j = s.key j)

/-! ## Memory -/

/-- Two memories in canonical form that read the same at every address of the 4096 are the same data (R60; log 2). -/
def Obligations.CanonicalMemoriesAreExtensional : Prop :=
  ∀ m m' : Memory, m.wf = true → m'.wf = true → (∀ a, a < 4096 → m.read a = m'.read a) → m = m'

/-- Self-modifying code: where Fx55 stores two neighbouring registers, a fetch from there reads them as the opcode, at once
(R75, R287, decision D20). -/
def Obligations.StoredBytesAreFetched : Prop :=
  ∀ (s t : State) (x k k' : Reg), s.mem.wf = true → s.i.toNat + x.toNat < 4096 → k'.toNat = k.toNat + 1 →
    k'.toNat ≤ x.toNat → exec (.storeRegs x) s = .next t →
    (t.withPc (BitVec.ofNat 16 (s.effAddr k.toNat))).fetch? = some [s.getV k, s.getV k']

/-! ## Frames: what an instruction leaves alone when exec answers a next state -/

/-- Control transfer (00EE, 1nnn, 2nnn, Bnnn, 3xnn, 4xnn, 5xy0, 9xy0): nothing but PC, and for 00EE and 2nnn the stack and a
fault record, is written. -/
def Obligations.ControlTransferFrame : Prop :=
  ∀ (ins : Instr) (s t : State) (p : Part), family ins = .control → exec ins s = .next t → ¬mayWrite ins s p → p.same s t

/-- Register and ALU instructions (6xnn, 7xnn, 8xy0 to 8xy7, 8xyE, Cxnn): nothing but PC, V[x], VF for the five flag
writers, and the count of random bytes for Cxnn, is written. -/
def Obligations.RegisterAluFrame : Prop :=
  ∀ (ins : Instr) (s t : State) (p : Part), family ins = .alu → exec ins s = .next t → ¬mayWrite ins s p → p.same s t

/-- Annn, Fx1E, Fx29: nothing but PC and I is written. -/
def Obligations.IndexFrame : Prop :=
  ∀ (ins : Instr) (s t : State) (p : Part), family ins = .index → exec ins s = .next t → ¬mayWrite ins s p → p.same s t

/-- Fx33, Fx55, Fx65: nothing but PC, a fault record, and the bytes I..I + 2, the bytes I..I + x, or the registers V0..Vx,
is written; I is unchanged. -/
def Obligations.MemoryFrame : Prop :=
  ∀ (ins : Instr) (s t : State) (p : Part), family ins = .memory → exec ins s = .next t → ¬mayWrite ins s p → p.same s t

/-- 00E0, Dxyn: nothing but PC, pixels, DIRTY, and for Dxyn VF and a fault record, is written; no byte of memory is. -/
def Obligations.DisplayFrame : Prop :=
  ∀ (ins : Instr) (s t : State) (p : Part), family ins = .display → exec ins s = .next t → ¬mayWrite ins s p → p.same s t

/-- Ex9E, ExA1, Fx07, Fx0A, Fx15, Fx18: nothing but PC and the one destination, or for the skips a fault record, is
written. -/
def Obligations.TimersAndKeysFrame : Prop :=
  ∀ (ins : Instr) (s t : State) (p : Part), family ins = .timersKeys → exec ins s = .next t → ¬mayWrite ins s p →
    p.same s t

/-! ## Control transfer -/

/-- R143: 1nnn, encoded 1nnn, sets PC to nnn, odd or even, without a fault and without a flag. -/
def Obligations.JumpSetsPc : Prop :=
  ∀ (s : State) (nnn : Addr12), decodeOp (wordNNN 0x1 nnn) = .insn (.jp nnn) ∧
    ∃ t, exec (.jp nnn) s = .next t ∧ t.pc.toNat = nnn.toNat ∧ t.getV 0xF = s.getV 0xF ∧ t.fault = s.fault

/-- 2nnn with a stack that is not full pushes PC + 2 as the newest entry and sets PC to nnn (R144; that PC + 2 is pushed is
decision D9, log 11). -/
def Obligations.CallPushesReturnAddress : Prop :=
  ∀ (s : State) (nnn : Addr12), s.sp < 16 →
    ∃ t, exec (.call nnn) s = .next t ∧ t.stack = s.stack ++ [s.pc + 2] ∧ t.sp = s.sp + 1 ∧ t.pc.toNat = nnn.toNat ∧
      t.fault = s.fault

/-- R31: a call with 16 entries is a fatal stack overflow and a return with none a fatal stack underflow: the fault is taken,
no later step changes anything, and the stack never wraps. -/
def Obligations.StackFaultsNeverWrap : Prop :=
  ∀ (s : State) (nnn : Addr12),
    (s.sp = 16 → ∃ t r, exec (.call nnn) s = .next t ∧ t.fault = some r ∧ r.kind = .stackOverflow ∧
      t.stack = s.stack ∧ step t = .next t) ∧
    (s.sp = 0 → ∃ t r, exec .ret s = .next t ∧ t.fault = some r ∧ r.kind = .stackUnderflow ∧
      t.stack = s.stack ∧ step t = .next t)

/-- R142: 00EE takes the newest entry off the stack and sets PC to it, whatever its value; with an empty stack it
raises STACK_UNDERFLOW with PC, before PC changes (R141). No flag is written. -/
def Obligations.ReturnPopsTheStack : Prop :=
  decodeOp 0x00EE = .insn .ret ∧
  ∀ s : State,
    (∀ rest v, s.stack = rest ++ [v] →
      ∃ t, exec .ret s = .next t ∧ t.pc = v ∧ t.stack = rest ∧ t.getV 0xF = s.getV 0xF ∧ t.fault = s.fault) ∧
    (s.sp = 0 → ∃ t r, exec .ret s = .next t ∧ t.fault = some r ∧ r.kind = .stackUnderflow ∧
      r.info = s.pc.toNat ∧ t.pc = s.pc)

/-- A return that finds the stack as a call left it goes to the instruction after the call and gives the stack of before
the call back, whatever ran in between (R142, R144; decision D9). -/
def Obligations.ReturnResumesAfterCall : Prop :=
  ∀ (s t t' : State) (nnn : Addr12), s.sp < 16 → exec (.call nnn) s = .next t → t'.stack = t.stack →
    ∃ u, exec .ret t' = .next u ∧ u.pc = s.pc + 2 ∧ u.stack = s.stack

/-- Bnnn sets PC to V0 + nnn, exactly, with no mask (R145; decision D11, log 12). -/
def Obligations.JumpWithOffsetAddsV0 : Prop :=
  ∀ (s : State) (nnn : Addr12),
    ∃ t, exec (.jpV0 nnn) s = .next t ∧ t.pc.toNat = (s.getV 0).toNat + nnn.toNat ∧ t.fault = s.fault

/-- R146 to R149: 3xnn, 4xnn, 5xy0 and 9xy0, encoded as those patterns say, add 4 to PC where their comparison holds and 2
where it does not, and write no flag; 5xyN and 9xyN with N ≠ 0 are illegal. -/
def Obligations.ConditionalSkips : Prop :=
  ∀ (s : State) (x y : Reg) (nn : Byte),
    (decodeOp (wordXNN 0x3 x nn) = .insn (.seImm x nn) ∧
      ∃ t, exec (.seImm x nn) s = .next t ∧ t.fault = s.fault ∧ t.getV 0xF = s.getV 0xF ∧
        t.pc = if s.getV x = nn then s.pc + 4 else s.pc + 2) ∧
    (decodeOp (wordXNN 0x4 x nn) = .insn (.sneImm x nn) ∧
      ∃ t, exec (.sneImm x nn) s = .next t ∧ t.fault = s.fault ∧ t.getV 0xF = s.getV 0xF ∧
        t.pc = if s.getV x = nn then s.pc + 2 else s.pc + 4) ∧
    (decodeOp (wordXYN 0x5 x y 0) = .insn (.seReg x y) ∧
      ∃ t, exec (.seReg x y) s = .next t ∧ t.fault = s.fault ∧ t.getV 0xF = s.getV 0xF ∧
        t.pc = if s.getV x = s.getV y then s.pc + 4 else s.pc + 2) ∧
    (decodeOp (wordXYN 0x9 x y 0) = .insn (.sneReg x y) ∧
      ∃ t, exec (.sneReg x y) s = .next t ∧ t.fault = s.fault ∧ t.getV 0xF = s.getV 0xF ∧
        t.pc = if s.getV x = s.getV y then s.pc + 2 else s.pc + 4) ∧
    (∀ n : Nibble, n ≠ 0 → decodeOp (wordXYN 0x5 x y n) = .illegal (wordXYN 0x5 x y n) ∧
      decodeOp (wordXYN 0x9 x y n) = .illegal (wordXYN 0x9 x y n))

/-- A taken skip does not look at the opcode it skips: with other bytes at PC + 2 and PC + 3, legal or not, the tick does
the same (R150, the spec's inference). -/
def Obligations.SkippedOpcodeIsNotDecoded : Prop :=
  ∀ (s t : State) (m : Memory) (ins : Instr), s.fault = none → s.fetchDecode = .insn ins → isSkip ins = true →
    step s = .next t → t.pc = s.pc + 4 →
    (∀ a, a ≠ s.pc.toNat + 2 → a ≠ s.pc.toNat + 3 → m.read a = s.mem.read a) →
    step (s.withMem m) = .next (t.withMem m)

/-! ## Register file and ALU -/

/-- R160, R161, R162: 6xnn sets V[x] to nn, 7xnn to (V[x] + nn) mod 256, 8xy0 to V[y]; none writes VF unless x = F, and
7xnn writes no carry. -/
def Obligations.PlainRegisterWrites : Prop :=
  ∀ (s : State) (x y : Reg) (nn : Byte),
    (decodeOp (wordXNN 0x6 x nn) = .insn (.ldImm x nn) ∧
      ∃ t, exec (.ldImm x nn) s = .next t ∧ t.getV x = nn ∧ (x ≠ 0xF → t.getV 0xF = s.getV 0xF) ∧
        t.pc = s.pc + 2 ∧ t.fault = s.fault) ∧
    (decodeOp (wordXNN 0x7 x nn) = .insn (.addImm x nn) ∧
      ∃ t, exec (.addImm x nn) s = .next t ∧ (t.getV x).toNat = ((s.getV x).toNat + nn.toNat) % 256 ∧
        (x ≠ 0xF → t.getV 0xF = s.getV 0xF) ∧ t.pc = s.pc + 2 ∧ t.fault = s.fault) ∧
    (decodeOp (wordXYN 0x8 x y 0) = .insn (.ldReg x y) ∧
      ∃ t, exec (.ldReg x y) s = .next t ∧ t.getV x = s.getV y ∧ (x ≠ 0xF → t.getV 0xF = s.getV 0xF) ∧
        t.pc = s.pc + 2 ∧ t.fault = s.fault)

/-- 8xy1, 8xy2, 8xy3 set every bit of V[x] to the OR, the AND, the XOR of the two bits, and write VF only where x = F
(R163, R164, R165; that VF is not written is decision D7, log 10). -/
def Obligations.BitwiseOperations : Prop :=
  ∀ (s : State) (x y : Reg),
    (∃ t, exec (.orReg x y) s = .next t ∧
      (∀ k, (t.getV x).getLsbD k = ((s.getV x).getLsbD k || (s.getV y).getLsbD k)) ∧
      (x ≠ 0xF → t.getV 0xF = s.getV 0xF) ∧ t.pc = s.pc + 2 ∧ t.fault = s.fault) ∧
    (∃ t, exec (.andReg x y) s = .next t ∧
      (∀ k, (t.getV x).getLsbD k = ((s.getV x).getLsbD k && (s.getV y).getLsbD k)) ∧
      (x ≠ 0xF → t.getV 0xF = s.getV 0xF) ∧ t.pc = s.pc + 2 ∧ t.fault = s.fault) ∧
    (∃ t, exec (.xorReg x y) s = .next t ∧
      (∀ k, (t.getV x).getLsbD k = ((s.getV x).getLsbD k != (s.getV y).getLsbD k)) ∧
      (x ≠ 0xF → t.getV 0xF = s.getV 0xF) ∧ t.pc = s.pc + 2 ∧ t.fault = s.fault)

/-- 8xy4 sets V[x] to (a + b) mod 256 and then VF to 1 iff a + b ≥ 256, else 0: for x = F the flag is what stays (R166, R24;
which opcode does it is general knowledge, R95, log 9, and not said here). -/
def Obligations.AddWithCarry : Prop :=
  ∀ (s : State) (x y : Reg), ∃ t, exec (.addReg x y) s = .next t ∧
    (x ≠ 0xF → (t.getV x).toNat = ((s.getV x).toNat + (s.getV y).toNat) % 256) ∧
    t.getV 0xF = (if 256 ≤ (s.getV x).toNat + (s.getV y).toNat then 1 else 0) ∧
    t.pc = s.pc + 2 ∧ t.fault = s.fault

/-- 8xy5 sets V[x] to (a - b) mod 256 and then VF to 1 iff a ≥ b, else 0: for x = F the flag is what stays (R167, R24; which
opcode does it is general knowledge, R95, log 9, and not said here). -/
def Obligations.SubtractWithBorrow : Prop :=
  ∀ (s : State) (x y : Reg), ∃ t, exec (.subReg x y) s = .next t ∧
    (x ≠ 0xF → ((t.getV x).toNat : Int) = (((s.getV x).toNat : Int) - (s.getV y).toNat) % 256) ∧
    t.getV 0xF = (if (s.getV y).toNat ≤ (s.getV x).toNat then 1 else 0) ∧
    t.pc = s.pc + 2 ∧ t.fault = s.fault

/-- 8xy7 sets V[x] to (b - a) mod 256 and then VF to 1 iff b ≥ a (R169; which way round is general knowledge, log 9). -/
def Obligations.ReverseSubtractWithBorrow : Prop :=
  ∀ (s : State) (x y : Reg), ∃ t, exec (.subn x y) s = .next t ∧
    (x ≠ 0xF → ((t.getV x).toNat : Int) = (((s.getV y).toNat : Int) - (s.getV x).toNat) % 256) ∧
    t.getV 0xF = (if (s.getV x).toNat ≤ (s.getV y).toNat then 1 else 0) ∧
    t.pc = s.pc + 2 ∧ t.fault = s.fault

/-- 8xy6 halves V[x] and then sets VF to its old bit 0; 8xyE doubles it modulo 256 and then sets VF to its old bit 7;
neither depends on V[y] (R168, R170; decisions D5 and D8, log 10). -/
def Obligations.ShiftsInPlace : Prop :=
  ∀ (s : State) (x y : Reg),
    (∃ t, exec (.shr x y) s = .next t ∧ (x ≠ 0xF → (t.getV x).toNat = (s.getV x).toNat / 2) ∧
      (t.getV 0xF).toNat = (s.getV x).toNat % 2 ∧ t.pc = s.pc + 2 ∧ t.fault = s.fault) ∧
    (∃ t, exec (.shl x y) s = .next t ∧ (x ≠ 0xF → (t.getV x).toNat = (s.getV x).toNat * 2 % 256) ∧
      (t.getV 0xF).toNat = (s.getV x).toNat / 128 ∧ t.pc = s.pc + 2 ∧ t.fault = s.fault)

/-- Cxnn draws the next byte of the free stream, whatever it is, and sets V[x] to that byte AND nn; no other instruction
draws one (R54, R171; decision D18, log 4). -/
def Obligations.RandomAndDrawsOneByte : Prop :=
  (∀ (s : State) (x : Reg) (nn : Byte), ∃ t, exec (.rnd x nn) s = .next t ∧
    t.getV x = Config.rand s.draws &&& nn ∧ t.draws = s.draws + 1 ∧ (x ≠ 0xF → t.getV 0xF = s.getV 0xF) ∧
    t.pc = s.pc + 2 ∧ t.fault = s.fault) ∧
  (∀ (ins : Instr) (s t : State), (∀ x nn, ins ≠ .rnd x nn) → exec ins s = .next t → t.draws = s.draws)

/-- The flags register: the six flag writers leave 0 or 1 in VF in every execution that raises no fault, also where x = F;
every other instruction changes VF only where it names it as its destination, Fx65 only with x = F (R23, R173; decision D8
for the shifts). -/
def Obligations.FlagWritersOfVF : Prop :=
  ∀ (ins : Instr) (s t : State), s.fault = none → exec ins s = .next t → t.fault = none →
    match ins with
    | .addReg _ _ | .subReg _ _ | .shr _ _ | .subn _ _ | .shl _ _ | .drw _ _ _ => t.getV 0xF = 0 ∨ t.getV 0xF = 1
    | .ldImm x _ | .addImm x _ | .ldReg x _ | .orReg x _ | .andReg x _ | .xorReg x _ | .rnd x _ | .ldVxDt x
    | .ldVxK x | .loadRegs x => x ≠ 0xF → t.getV 0xF = s.getV 0xF
    | _ => t.getV 0xF = s.getV 0xF

/-! ## Index register and memory -/

/-- R190, R191: Annn sets I to nnn; Fx1E adds V[x] to I modulo 65536; both leave VF alone and never fault. -/
def Obligations.IndexRegisterWrites : Prop :=
  ∀ (s : State) (x : Reg) (nnn : Addr12),
    (decodeOp (wordNNN 0xA nnn) = .insn (.ldI nnn) ∧
      ∃ t, exec (.ldI nnn) s = .next t ∧ t.i.toNat = nnn.toNat ∧ t.getV 0xF = s.getV 0xF ∧ t.pc = s.pc + 2 ∧
        t.fault = s.fault) ∧
    (decodeOp (wordXNN 0xF x 0x1E) = .insn (.addI x) ∧
      ∃ t, exec (.addI x) s = .next t ∧ t.i.toNat = (s.i.toNat + (s.getV x).toNat) % 65536 ∧
        t.getV 0xF = s.getV 0xF ∧ t.pc = s.pc + 2 ∧ t.fault = s.fault)

/-- Fx29 sets I to 5 · V[x], or under the policy `lowNibble` to 5 · (V[x] mod 16); below 16 the policy does not matter
(R192; the policy is left open, decision D14, log 3). -/
def Obligations.GlyphAddress : Prop :=
  ∀ (s : State) (x : Reg), ∃ t, exec (.ldF x) s = .next t ∧ t.pc = s.pc + 2 ∧ t.fault = s.fault ∧
    ((s.getV x).toNat < 16 → t.i.toNat = (s.getV x).toNat * 5) ∧
    (Config.glyphAddrPolicy = .unmasked → t.i.toNat = (s.getV x).toNat * 5) ∧
    (Config.glyphAddrPolicy = .lowNibble → t.i.toNat = (s.getV x).toNat % 16 * 5)

/-- Fx33 with I + 2 in memory stores three decimal digits, hundreds first, that make up V[x] (R193). -/
def Obligations.BcdStore : Prop :=
  ∀ (s : State) (x : Reg), s.mem.wf = true → s.i.toNat + 2 < 4096 →
    ∃ t, exec (.ldB x) s = .next t ∧
      (s.getV x).toNat = (t.mem.read (s.effAddr 0)).toNat * 100 + (t.mem.read (s.effAddr 1)).toNat * 10 +
        (t.mem.read (s.effAddr 2)).toNat ∧
      (t.mem.read (s.effAddr 0)).toNat ≤ 2 ∧ (t.mem.read (s.effAddr 1)).toNat ≤ 9 ∧
      (t.mem.read (s.effAddr 2)).toNat ≤ 9 ∧ t.i = s.i ∧ t.pc = s.pc + 2 ∧ t.fault = s.fault

/-- Fx55 with I + x in memory stores V0..Vx, x included, at I..I + x in order; I is unchanged (R194). -/
def Obligations.RegisterBlockStore : Prop :=
  ∀ (s : State) (x : Reg), s.mem.wf = true → s.i.toNat + x.toNat < 4096 →
    ∃ t, exec (.storeRegs x) s = .next t ∧
      (∀ z : Reg, z.toNat ≤ x.toNat → t.mem.read (s.effAddr z.toNat) = s.getV z) ∧
      t.i = s.i ∧ t.pc = s.pc + 2 ∧ t.fault = s.fault

/-- Fx65 with I + x in memory loads V0..Vx, x included, from I..I + x in order and leaves the registers above x and I
alone (R195). -/
def Obligations.RegisterBlockLoad : Prop :=
  ∀ (s : State) (x : Reg), s.i.toNat + x.toNat < 4096 →
    ∃ t, exec (.loadRegs x) s = .next t ∧
      (∀ z : Reg, z.toNat ≤ x.toNat → t.getV z = s.mem.read (s.effAddr z.toNat)) ∧
      (∀ z : Reg, x.toNat < z.toNat → t.getV z = s.getV z) ∧
      t.i = s.i ∧ t.pc = s.pc + 2 ∧ t.fault = s.fault

/-- A block load from where a block store stored, with memory and I as the store left them, gives the stored registers
back (R194, R195). -/
def Obligations.BlockLoadAfterBlockStore : Prop :=
  ∀ (s t t' : State) (x : Reg), s.mem.wf = true → s.i.toNat + x.toNat < 4096 → exec (.storeRegs x) s = .next t →
    t'.mem = t.mem → t'.i = t.i →
    ∃ u, exec (.loadRegs x) t' = .next u ∧ ∀ z : Reg, z.toNat ≤ x.toNat → u.getV z = s.getV z

/-- Dxyn, Fx33, Fx55, Fx65 with one of the bytes they access outside memory raise MEM_OUT_OF_BOUNDS with the lowest
address outside (R64, R65, R250; decision D13, log 16). -/
def Obligations.OutOfBoundsAccessFaults : Prop :=
  ∀ (ins : Instr) (s : State), 0 < accessCount ins → 4096 ≤ s.i.toNat + accessCount ins - 1 →
    ∃ t r, exec ins s = .next t ∧ t.fault = some r ∧ r.kind = .memOutOfBounds ∧ r.pc = s.pc ∧
      4096 ≤ r.info ∧ s.i.toNat ≤ r.info ∧ r.info < s.i.toNat + accessCount ins ∧
      (∀ a, s.i.toNat ≤ a → 4096 ≤ a → r.info ≤ a)

/-! ## Display -/

/-- 00E0 turns every pixel off and sets DIRTY always (R212; always is decision D16, log 17). -/
def Obligations.ClearDisplay : Prop :=
  ∀ s : State, ∃ t, exec .cls s = .next t ∧ (∀ r c, t.display.get r c = false) ∧ t.dirty = true ∧
    t.getV 0xF = s.getV 0xF ∧ t.pc = s.pc + 2 ∧ t.fault = s.fault

/-- Dxyn with its rows in memory (or with no row): a pixel that a set bit of the sprite lands on, placed with wraparound,
is inverted and every other one kept; VF becomes 1 iff one of the former was on, else 0; DIRTY is set iff there is one
(R210, R211, R213, R214). -/
def Obligations.DrawXorsTheSprite : Prop :=
  ∀ (s : State) (x y : Reg) (n : Nibble), n = 0 ∨ s.i.toNat + n.toNat ≤ 4096 →
    ∃ t, exec (.drw x y n) s = .next t ∧
      (∀ r c, s.spriteHits x y n r c → t.display.get r c = !s.display.get r c) ∧
      (∀ r c, ¬s.spriteHits x y n r c → t.display.get r c = s.display.get r c) ∧
      ((∃ r c, s.spriteHits x y n r c ∧ s.display.get r c = true) → t.getV 0xF = 1) ∧
      ((∀ r c, s.spriteHits x y n r c → s.display.get r c = false) → t.getV 0xF = 0) ∧
      (t.dirty = true ↔ s.dirty = true ∨ ∃ r c, s.spriteHits x y n r c) ∧
      t.pc = s.pc + 2 ∧ t.fault = s.fault

/-- Drawing the same sprite twice at the same coordinates restores the display (R215); the second draw writes VF = 1 iff
some pixel that the sprite lands on was off before the first draw, and so, where all of them were off, iff the sprite has a
set bit. (R215's last clause leaves that condition out; R213 and R214 give it: log 21.) -/
def Obligations.DrawTwiceRestoresTheDisplay : Prop :=
  ∀ (s t t' : State) (x y : Reg) (n : Nibble), n = 0 ∨ s.i.toNat + n.toNat ≤ 4096 →
    exec (.drw x y n) s = .next t → t'.display = t.display → t'.i = s.i → t'.getV x = s.getV x → t'.getV y = s.getV y →
    (∀ j, j < n.toNat → t'.mem.read (s.effAddr j) = s.mem.read (s.effAddr j)) →
    ∃ u, exec (.drw x y n) t' = .next u ∧ u.display = s.display ∧
      ((∃ r c, s.spriteHits x y n r c ∧ s.display.get r c = false) → u.getV 0xF = 1) ∧
      ((∀ r c, s.spriteHits x y n r c → s.display.get r c = true) → u.getV 0xF = 0) ∧
      ((∀ r c, s.spriteHits x y n r c → s.display.get r c = false) →
        (u.getV 0xF = 1 ↔ ∃ j, j < n.toNat ∧ s.mem.read (s.effAddr j) ≠ 0))

/-! ## Timers and keys -/

/-- Fx07 reads DT into V[x] before the timer step, Fx15 writes DT and Fx18 writes ST from V[x] (R231, R232, R233; which
opcode does which is general knowledge, R96, log 9). -/
def Obligations.TimerReadsAndWrites : Prop :=
  ∀ (s : State) (x : Reg),
    (∃ t, exec (.ldVxDt x) s = .next t ∧ t.getV x = s.dt ∧ t.dt = s.dt ∧ t.pc = s.pc + 2 ∧ t.fault = s.fault) ∧
    (∃ t, exec (.ldDtVx x) s = .next t ∧ t.dt = s.getV x ∧ t.st = s.st ∧ t.pc = s.pc + 2 ∧ t.fault = s.fault) ∧
    (∃ t, exec (.ldStVx x) s = .next t ∧ t.st = s.getV x ∧ t.dt = s.dt ∧ t.pc = s.pc + 2 ∧ t.fault = s.fault)

/-- Ex9E and ExA1 with V[x] below 16 skip where the key V[x] is, respectively is not, pressed; with V[x] of 16 or more both
raise KEY_OUT_OF_BOUNDS with V[x] (R230, R234, R235; that V[x] names the key is general knowledge, log 9, the fault
decision D15, log 18). -/
def Obligations.KeySkips : Prop :=
  ∀ (s : State) (x : Reg),
    ((s.getV x).toNat < 16 →
      (∃ t, exec (.skp x) s = .next t ∧ t.fault = s.fault ∧
        t.pc = if s.key (s.getV x).toNat = true then s.pc + 4 else s.pc + 2) ∧
      (∃ t, exec (.sknp x) s = .next t ∧ t.fault = s.fault ∧
        t.pc = if s.key (s.getV x).toNat = true then s.pc + 2 else s.pc + 4)) ∧
    (16 ≤ (s.getV x).toNat → ∀ ins, ins = .skp x ∨ ins = .sknp x → ∃ t r, exec ins s = .next t ∧ t.fault = some r ∧
      r.kind = .keyOutOfBounds ∧ r.info = (s.getV x).toNat)

/-- R236: Fx0A, encoded Fx0A, stores the lowest pressed key into V[x] and advances PC by 2; with no key pressed PC and V[x]
are unchanged, so the same opcode is fetched next tick. No flag is written, and it never faults. -/
def Obligations.KeyWait : Prop :=
  ∀ (s : State) (x : Reg), decodeOp (wordXNN 0xF x 0x0A) = .insn (.ldVxK x) ∧
    (∀ k, k < 16 → s.key k = true → (∀ j, j < k → s.key j = false) →
      ∃ t, exec (.ldVxK x) s = .next t ∧ (t.getV x).toNat = k ∧ (x ≠ 0xF → t.getV 0xF = s.getV 0xF) ∧
        t.pc = s.pc + 2 ∧ t.fault = s.fault) ∧
    ((∀ j, j < 16 → s.key j = false) →
      ∃ t, exec (.ldVxK x) s = .next t ∧ t.pc = s.pc ∧ t.getV x = s.getV x ∧ t.getV 0xF = s.getV 0xF ∧
        t.fault = s.fault)

/-! ## What an instruction cannot learn -/

/-- No instruction reads ST (R32, R233): with another ST, every instruction does the same to everything else, and leaves
that other ST, or for Fx18 the ST it writes. -/
def Obligations.SoundTimerIsNotReadable : Prop :=
  ∀ (ins : Instr) (s t : State) (b : Byte), exec ins s = .next t →
    exec ins (s.withSt b) = .next (match ins with | .ldStVx _ => t | _ => t.withSt b)

/-- Only Ex9E, ExA1 and Fx0A read the keys (R36): with other keys, every other instruction does the same. -/
def Obligations.KeysAreReadByThreeInstructions : Prop :=
  ∀ (ins : Instr) (s t : State) (keys : Vector Bool 16),
    (∀ x, ins ≠ .skp x ∧ ins ≠ .sknp x ∧ ins ≠ .ldVxK x) → exec ins s = .next t →
    exec ins (s.withKeys keys) = .next (t.withKeys keys)
end

