-- ==== Sys2Proof/Laws/Decode.lean ====
section
/-! SUPPORT. The laws of the opcode layouts: the bits of a word built from its fields, the fields of such a word, what the
three masks of the opcode table keep, and the opcode made of its two bytes. -/

namespace Sys2Proof

theorem getLsbD_wordNNN (a : Nibble) (nnn : Addr12) (i : Nat) :
    (wordNNN a nnn).getLsbD i = if i < 12 then nnn.getLsbD i else a.getLsbD (i - 12) := by
  simp only [wordNNN, BitVec.getLsbD_append]

theorem getLsbD_wordXNN (a : Nibble) (x : Reg) (nn : Byte) (i : Nat) :
    (wordXNN a x nn).getLsbD i =
      if i < 8 then nn.getLsbD i else if i - 8 < 4 then x.getLsbD (i - 8) else a.getLsbD (i - 8 - 4) := by
  simp only [wordXNN, BitVec.getLsbD_append]

theorem getLsbD_wordXYN (a : Nibble) (x y : Reg) (n : Nibble) (i : Nat) :
    (wordXYN a x y n).getLsbD i =
      if i < 4 then n.getLsbD i else if i - 4 < 4 then y.getLsbD (i - 4)
      else if i - 4 - 4 < 4 then x.getLsbD (i - 4 - 4) else a.getLsbD (i - 4 - 4 - 4) := by
  simp only [wordXYN, BitVec.getLsbD_append]

/-! ## The fields of a word built from them -/

@[simp] theorem fieldNNN_wordNNN (a : Nibble) (nnn : Addr12) : fieldNNN (wordNNN a nnn) = nnn := by
  apply BitVec.eq_of_getLsbD_eq; intro i hi
  simp only [fieldNNN, BitVec.getLsbD_extractLsb', getLsbD_wordNNN]
  interval_cases i <;> simp

@[simp] theorem fieldX_wordXNN (a : Nibble) (x : Reg) (nn : Byte) : fieldX (wordXNN a x nn) = x := by
  apply BitVec.eq_of_getLsbD_eq; intro i hi
  simp only [fieldX, BitVec.getLsbD_extractLsb', getLsbD_wordXNN]
  interval_cases i <;> simp

@[simp] theorem fieldNN_wordXNN (a : Nibble) (x : Reg) (nn : Byte) : fieldNN (wordXNN a x nn) = nn := by
  apply BitVec.eq_of_getLsbD_eq; intro i hi
  simp only [fieldNN, BitVec.getLsbD_extractLsb', getLsbD_wordXNN]
  interval_cases i <;> simp

@[simp] theorem fieldX_wordXYN (a : Nibble) (x y : Reg) (n : Nibble) : fieldX (wordXYN a x y n) = x := by
  apply BitVec.eq_of_getLsbD_eq; intro i hi
  simp only [fieldX, BitVec.getLsbD_extractLsb', getLsbD_wordXYN]
  interval_cases i <;> simp

@[simp] theorem fieldY_wordXYN (a : Nibble) (x y : Reg) (n : Nibble) : fieldY (wordXYN a x y n) = y := by
  apply BitVec.eq_of_getLsbD_eq; intro i hi
  simp only [fieldY, BitVec.getLsbD_extractLsb', getLsbD_wordXYN]
  interval_cases i <;> simp

@[simp] theorem fieldN_wordXYN (a : Nibble) (x y : Reg) (n : Nibble) : fieldN (wordXYN a x y n) = n := by
  apply BitVec.eq_of_getLsbD_eq; intro i hi
  simp only [fieldN, BitVec.getLsbD_extractLsb', getLsbD_wordXYN]
  interval_cases i <;> simp

/-! ## What the masks of the opcode table keep -/

theorem wordNNN_and_F000 (a : Nibble) (nnn : Addr12) : wordNNN a nnn &&& 0xF000#16 = wordNNN a 0#12 := by
  apply BitVec.eq_of_getLsbD_eq; intro i hi
  simp only [BitVec.getLsbD_and, getLsbD_wordNNN]
  interval_cases i <;> simp

theorem wordXNN_and_F000 (a : Nibble) (x : Reg) (nn : Byte) : wordXNN a x nn &&& 0xF000#16 = wordXNN a 0#4 0#8 := by
  apply BitVec.eq_of_getLsbD_eq; intro i hi
  simp only [BitVec.getLsbD_and, getLsbD_wordXNN]
  interval_cases i <;> simp

theorem wordXNN_and_F0FF (a : Nibble) (x : Reg) (nn : Byte) : wordXNN a x nn &&& 0xF0FF#16 = wordXNN a 0#4 nn := by
  apply BitVec.eq_of_getLsbD_eq; intro i hi
  simp only [BitVec.getLsbD_and, getLsbD_wordXNN]
  interval_cases i <;> simp

theorem wordXYN_and_F00F (a : Nibble) (x y : Reg) (n : Nibble) : wordXYN a x y n &&& 0xF00F#16 = wordXYN a 0#4 0#4 n := by
  apply BitVec.eq_of_getLsbD_eq; intro i hi
  simp only [BitVec.getLsbD_and, getLsbD_wordXYN]
  interval_cases i <;> simp

theorem wordXYN_and_F000 (a : Nibble) (x y : Reg) (n : Nibble) : wordXYN a x y n &&& 0xF000#16 = wordXYN a 0#4 0#4 0#4 := by
  apply BitVec.eq_of_getLsbD_eq; intro i hi
  simp only [BitVec.getLsbD_and, getLsbD_wordXYN]
  interval_cases i <;> simp

/-! ## A word is made of its fields -/

theorem word_of_nnn (op : Word) : op = wordNNN (op.extractLsb' 12 4) (fieldNNN op) := by
  apply BitVec.eq_of_getLsbD_eq; intro i hi
  simp only [fieldNNN, BitVec.getLsbD_extractLsb', getLsbD_wordNNN]
  interval_cases i <;> simp

theorem word_of_xnn (op : Word) : op = wordXNN (op.extractLsb' 12 4) (fieldX op) (fieldNN op) := by
  apply BitVec.eq_of_getLsbD_eq; intro i hi
  simp only [fieldX, fieldNN, BitVec.getLsbD_extractLsb', getLsbD_wordXNN]
  interval_cases i <;> simp

theorem word_of_xyn (op : Word) : op = wordXYN (op.extractLsb' 12 4) (fieldX op) (fieldY op) (fieldN op) := by
  apply BitVec.eq_of_getLsbD_eq; intro i hi
  simp only [fieldX, fieldY, fieldN, BitVec.getLsbD_extractLsb', getLsbD_wordXYN]
  interval_cases i <;> simp

/-! ## Bytes and words -/

@[simp] theorem opcodeOf_bytes (op : Word) : opcodeOf (highByte op) (lowByte op) = op := by
  apply BitVec.eq_of_getLsbD_eq; intro i hi
  simp only [opcodeOf, highByte, lowByte, BitVec.getLsbD_append, BitVec.getLsbD_extractLsb']
  interval_cases i <;> simp

/-- The opcode of two bytes is first · 256 + second (R122). -/
theorem toNat_opcodeOf (hi lo : Byte) : (opcodeOf hi lo).toNat = hi.toNat * 256 + lo.toNat := by
  have h := lo.isLt
  simp only [opcodeOf, BitVec.toNat_append]
  rw [← Nat.shiftLeft_add_eq_or_of_lt h, Nat.shiftLeft_eq]

@[simp] theorem decode_pair (hi lo : Byte) (rest : List Byte) : decode (hi :: lo :: rest) = decodeOp (opcodeOf hi lo) := rfl

theorem decodeTableWord_of_insn {nbits w : Nat} {ins : Instr} (h : decodeOp (tableOpcode nbits w) = .insn ins) :
    decodeTableWord nbits w = some ins := by
  simp [decodeTableWord, h]

end Sys2Proof
end

