-- ==== Sys2Proof/Laws/Memory.lean ====
section
/-! SUPPORT. The laws of memory: a read after a write, the canonical form kept by every write, and the same for runs of
bytes. -/

namespace Sys2Proof.Machine

@[simp] theorem Memory.read_nil (a : Nat) : Memory.read [] a = Memory.unlisted a := rfl

@[simp] theorem Memory.wf_nil : Memory.wf [] = true := rfl

theorem Memory.read_cell_append_other {a a' : Nat} (b : Byte) (m : Memory) (h : a' ≠ a) :
    Memory.read (Memory.cell a b ++ m) a' = Memory.read m a' := by
  unfold Memory.cell
  split
  · rfl
  · simp [Memory.read, Ne.symm h]

/-- An address below every listed one reads as its reset contents. -/
theorem Memory.read_of_wfFrom {lo : Nat} {m : Memory} (h : Memory.wfFrom lo m = true) {a : Nat} (ha : a < lo) :
    Memory.read m a = Memory.unlisted a := by
  induction m generalizing lo with
  | nil => rfl
  | cons c m ih =>
    obtain ⟨k, b⟩ := c
    simp only [Memory.wfFrom, Bool.and_eq_true, decide_eq_true_eq] at h
    obtain ⟨⟨⟨hlo, _⟩, _⟩, hm⟩ := h
    rw [Memory.read, if_neg (by omega)]
    exact ih hm (by omega)

theorem Memory.read_cell_append_same {a : Nat} (b : Byte) {m : Memory} (h : Memory.wfFrom (a + 1) m = true) :
    Memory.read (Memory.cell a b ++ m) a = b := by
  unfold Memory.cell
  split
  · next hb => rw [List.nil_append, Memory.read_of_wfFrom h (by omega), hb]
  · simp [Memory.read]

theorem Memory.wfFrom_mono {lo lo' : Nat} {m : Memory} (h : Memory.wfFrom lo m = true) (hl : lo' ≤ lo) :
    Memory.wfFrom lo' m = true := by
  cases m with
  | nil => rfl
  | cons c m =>
    simp only [Memory.wfFrom, Bool.and_eq_true, decide_eq_true_eq] at h ⊢
    exact ⟨⟨⟨by omega, h.1.1.2⟩, h.1.2⟩, h.2⟩

theorem Memory.wfFrom_cell_append {lo a : Nat} (b : Byte) {m : Memory} (h : Memory.wfFrom (a + 1) m = true)
    (hlo : lo ≤ a) (ha : a < 4096) : Memory.wfFrom lo (Memory.cell a b ++ m) = true := by
  unfold Memory.cell
  split
  · exact Memory.wfFrom_mono h (by omega)
  · next hb => simp [Memory.wfFrom, hlo, ha, hb, h]

/-- A write leaves every other address alone. -/
theorem Memory.read_write_other (m : Memory) {a a' : Nat} (b : Byte) (h : a' ≠ a) :
    (m.write a b).read a' = m.read a' := by
  induction m with
  | nil => simpa [Memory.write] using Memory.read_cell_append_other b [] h
  | cons c m ih =>
    obtain ⟨k, c⟩ := c
    unfold Memory.write
    split
    · exact Memory.read_cell_append_other b _ h
    · split
      · next hk => rw [Memory.read_cell_append_other b m h, Memory.read, if_neg (by omega)]
      · simp only [Memory.read, ih]

theorem Memory.read_write_same_from {lo : Nat} {m : Memory} (a : Nat) (b : Byte) (h : Memory.wfFrom lo m = true) :
    (m.write a b).read a = b := by
  induction m generalizing lo with
  | nil => simpa [Memory.write] using Memory.read_cell_append_same b (m := []) rfl
  | cons c m ih =>
    obtain ⟨k, c⟩ := c
    have h' := h
    simp only [Memory.wfFrom, Bool.and_eq_true, decide_eq_true_eq] at h
    obtain ⟨⟨⟨hlo, hk⟩, hc⟩, hm⟩ := h
    unfold Memory.write
    split
    · next hak =>
      refine Memory.read_cell_append_same b ?_
      simp only [Memory.wfFrom, Bool.and_eq_true, decide_eq_true_eq]
      exact ⟨⟨⟨by omega, hk⟩, hc⟩, hm⟩
    · split
      · next hk => subst hk; exact Memory.read_cell_append_same b hm
      · next hne =>
        rw [Memory.read, if_neg (by omega)]
        exact ih hm

/-- A read after a write to the same address gives the byte written. -/
theorem Memory.read_write_same {m : Memory} (h : m.wf = true) (a : Nat) (b : Byte) : (m.write a b).read a = b :=
  Memory.read_write_same_from a b h

theorem Memory.wfFrom_write {lo : Nat} {m : Memory} {a : Nat} (b : Byte) (h : Memory.wfFrom lo m = true) (hlo : lo ≤ a)
    (ha : a < 4096) : Memory.wfFrom lo (m.write a b) = true := by
  induction m generalizing lo with
  | nil => simpa [Memory.write] using Memory.wfFrom_cell_append b (m := []) rfl hlo ha
  | cons c m ih =>
    obtain ⟨k, c⟩ := c
    simp only [Memory.wfFrom, Bool.and_eq_true, decide_eq_true_eq] at h
    obtain ⟨⟨⟨hlo', hk⟩, hc⟩, hm⟩ := h
    unfold Memory.write
    split
    · refine Memory.wfFrom_cell_append b ?_ hlo ha
      simp only [Memory.wfFrom, Bool.and_eq_true, decide_eq_true_eq]
      exact ⟨⟨⟨by omega, hk⟩, hc⟩, hm⟩
    · split
      · next hk => subst hk; exact Memory.wfFrom_cell_append b hm hlo ha
      · simp only [Memory.wfFrom, Bool.and_eq_true, decide_eq_true_eq]
        exact ⟨⟨⟨hlo', hk⟩, hc⟩, ih hm (by omega)⟩

/-- A write inside memory keeps the canonical form. -/
theorem Memory.wf_write {m : Memory} (h : m.wf = true) {a : Nat} (ha : a < 4096) (b : Byte) : (m.write a b).wf = true :=
  Memory.wfFrom_write b h (by omega) ha

/-- A run of writes inside memory keeps the canonical form. -/
theorem Memory.wf_writeList {m : Memory} (h : m.wf = true) {a : Nat} (bs : List Byte) (ha : a + bs.length ≤ 4096) :
    (m.writeList a bs).wf = true := by
  induction bs generalizing m a with
  | nil => exact h
  | cons b bs ih =>
    simp only [List.length_cons] at ha
    exact ih (Memory.wf_write h (by omega) b) (by omega)

/-- A run of writes leaves every address outside it alone. -/
theorem Memory.read_writeList_outside (m : Memory) {a a' : Nat} (bs : List Byte)
    (h : a' < a ∨ a + bs.length ≤ a') : (m.writeList a bs).read a' = m.read a' := by
  induction bs generalizing m a with
  | nil => rfl
  | cons b bs ih =>
    simp only [List.length_cons] at h
    rw [Memory.writeList, ih _ (by omega), Memory.read_write_other _ _ (by omega)]

/-- Byte `k` of a run of writes is read back at its address. -/
theorem Memory.read_writeList_inside {m : Memory} (hm : m.wf = true) {a : Nat} (bs : List Byte)
    (ha : a + bs.length ≤ 4096) {k : Nat} (hk : k < bs.length) : (m.writeList a bs).read (a + k) = bs[k] := by
  induction bs generalizing m a k with
  | nil => simp at hk
  | cons b bs ih =>
    simp only [List.length_cons] at ha hk
    have hw := Memory.wf_write hm (a := a) (by omega) b
    cases k with
    | zero =>
      simp only [Memory.writeList, Nat.add_zero, List.getElem_cons_zero]
      rw [Memory.read_writeList_outside _ _ (by omega), Memory.read_write_same hm]
    | succ k =>
      simp only [Memory.writeList, List.getElem_cons_succ]
      have := ih hw (a := a + 1) (by omega) (k := k) (by omega)
      rwa [show a + 1 + k = a + (k + 1) by omega] at this

@[simp] theorem Memory.length_readList (m : Memory) (a n : Nat) : (m.readList a n).length = n := by
  induction n generalizing a with
  | zero => rfl
  | succ n ih => simp [Memory.readList, ih]

/-- Byte `k` of a run of reads. -/
@[simp] theorem Memory.getElem_readList (m : Memory) (a n k : Nat) (h : k < (m.readList a n).length) :
    (m.readList a n)[k] = m.read (a + k) := by
  induction n generalizing a k with
  | zero => simp [Memory.readList] at h
  | succ n ih =>
    cases k with
    | zero => rfl
    | succ k =>
      simp only [Memory.readList, List.getElem_cons_succ]
      rw [ih, show a + 1 + k = a + (k + 1) by omega]

end Sys2Proof.Machine
end

