-- ==== Sys2Proof/Laws/State.lean ====
section
/-! SUPPORT. One lemma per field per update of State, true by `rfl`, so that no proof unfolds a record update; and the same
for the accessors that read through a field. -/

namespace Sys2Proof.Machine

variable (s : State)

/-! ### withV -/

@[simp] theorem State.withV_v (z : Vector Byte 16) : (s.withV z).v = z := rfl
@[simp] theorem State.withV_pc (z : Vector Byte 16) : (s.withV z).pc = s.pc := rfl
@[simp] theorem State.withV_i (z : Vector Byte 16) : (s.withV z).i = s.i := rfl
@[simp] theorem State.withV_stack (z : Vector Byte 16) : (s.withV z).stack = s.stack := rfl
@[simp] theorem State.withV_dt (z : Vector Byte 16) : (s.withV z).dt = s.dt := rfl
@[simp] theorem State.withV_st (z : Vector Byte 16) : (s.withV z).st = s.st := rfl
@[simp] theorem State.withV_mem (z : Vector Byte 16) : (s.withV z).mem = s.mem := rfl
@[simp] theorem State.withV_display (z : Vector Byte 16) : (s.withV z).display = s.display := rfl
@[simp] theorem State.withV_dirty (z : Vector Byte 16) : (s.withV z).dirty = s.dirty := rfl
@[simp] theorem State.withV_keys (z : Vector Byte 16) : (s.withV z).keys = s.keys := rfl
@[simp] theorem State.withV_fault (z : Vector Byte 16) : (s.withV z).fault = s.fault := rfl
@[simp] theorem State.withV_draws (z : Vector Byte 16) : (s.withV z).draws = s.draws := rfl

/-! ### withPc -/

@[simp] theorem State.withPc_v (z : Word) : (s.withPc z).v = s.v := rfl
@[simp] theorem State.withPc_pc (z : Word) : (s.withPc z).pc = z := rfl
@[simp] theorem State.withPc_i (z : Word) : (s.withPc z).i = s.i := rfl
@[simp] theorem State.withPc_stack (z : Word) : (s.withPc z).stack = s.stack := rfl
@[simp] theorem State.withPc_dt (z : Word) : (s.withPc z).dt = s.dt := rfl
@[simp] theorem State.withPc_st (z : Word) : (s.withPc z).st = s.st := rfl
@[simp] theorem State.withPc_mem (z : Word) : (s.withPc z).mem = s.mem := rfl
@[simp] theorem State.withPc_display (z : Word) : (s.withPc z).display = s.display := rfl
@[simp] theorem State.withPc_dirty (z : Word) : (s.withPc z).dirty = s.dirty := rfl
@[simp] theorem State.withPc_keys (z : Word) : (s.withPc z).keys = s.keys := rfl
@[simp] theorem State.withPc_fault (z : Word) : (s.withPc z).fault = s.fault := rfl
@[simp] theorem State.withPc_draws (z : Word) : (s.withPc z).draws = s.draws := rfl

/-! ### withI -/

@[simp] theorem State.withI_v (z : Word) : (s.withI z).v = s.v := rfl
@[simp] theorem State.withI_pc (z : Word) : (s.withI z).pc = s.pc := rfl
@[simp] theorem State.withI_i (z : Word) : (s.withI z).i = z := rfl
@[simp] theorem State.withI_stack (z : Word) : (s.withI z).stack = s.stack := rfl
@[simp] theorem State.withI_dt (z : Word) : (s.withI z).dt = s.dt := rfl
@[simp] theorem State.withI_st (z : Word) : (s.withI z).st = s.st := rfl
@[simp] theorem State.withI_mem (z : Word) : (s.withI z).mem = s.mem := rfl
@[simp] theorem State.withI_display (z : Word) : (s.withI z).display = s.display := rfl
@[simp] theorem State.withI_dirty (z : Word) : (s.withI z).dirty = s.dirty := rfl
@[simp] theorem State.withI_keys (z : Word) : (s.withI z).keys = s.keys := rfl
@[simp] theorem State.withI_fault (z : Word) : (s.withI z).fault = s.fault := rfl
@[simp] theorem State.withI_draws (z : Word) : (s.withI z).draws = s.draws := rfl

/-! ### withStack -/

@[simp] theorem State.withStack_v (z : List Word) : (s.withStack z).v = s.v := rfl
@[simp] theorem State.withStack_pc (z : List Word) : (s.withStack z).pc = s.pc := rfl
@[simp] theorem State.withStack_i (z : List Word) : (s.withStack z).i = s.i := rfl
@[simp] theorem State.withStack_stack (z : List Word) : (s.withStack z).stack = z := rfl
@[simp] theorem State.withStack_dt (z : List Word) : (s.withStack z).dt = s.dt := rfl
@[simp] theorem State.withStack_st (z : List Word) : (s.withStack z).st = s.st := rfl
@[simp] theorem State.withStack_mem (z : List Word) : (s.withStack z).mem = s.mem := rfl
@[simp] theorem State.withStack_display (z : List Word) : (s.withStack z).display = s.display := rfl
@[simp] theorem State.withStack_dirty (z : List Word) : (s.withStack z).dirty = s.dirty := rfl
@[simp] theorem State.withStack_keys (z : List Word) : (s.withStack z).keys = s.keys := rfl
@[simp] theorem State.withStack_fault (z : List Word) : (s.withStack z).fault = s.fault := rfl
@[simp] theorem State.withStack_draws (z : List Word) : (s.withStack z).draws = s.draws := rfl

/-! ### withDt -/

@[simp] theorem State.withDt_v (z : Byte) : (s.withDt z).v = s.v := rfl
@[simp] theorem State.withDt_pc (z : Byte) : (s.withDt z).pc = s.pc := rfl
@[simp] theorem State.withDt_i (z : Byte) : (s.withDt z).i = s.i := rfl
@[simp] theorem State.withDt_stack (z : Byte) : (s.withDt z).stack = s.stack := rfl
@[simp] theorem State.withDt_dt (z : Byte) : (s.withDt z).dt = z := rfl
@[simp] theorem State.withDt_st (z : Byte) : (s.withDt z).st = s.st := rfl
@[simp] theorem State.withDt_mem (z : Byte) : (s.withDt z).mem = s.mem := rfl
@[simp] theorem State.withDt_display (z : Byte) : (s.withDt z).display = s.display := rfl
@[simp] theorem State.withDt_dirty (z : Byte) : (s.withDt z).dirty = s.dirty := rfl
@[simp] theorem State.withDt_keys (z : Byte) : (s.withDt z).keys = s.keys := rfl
@[simp] theorem State.withDt_fault (z : Byte) : (s.withDt z).fault = s.fault := rfl
@[simp] theorem State.withDt_draws (z : Byte) : (s.withDt z).draws = s.draws := rfl

/-! ### withSt -/

@[simp] theorem State.withSt_v (z : Byte) : (s.withSt z).v = s.v := rfl
@[simp] theorem State.withSt_pc (z : Byte) : (s.withSt z).pc = s.pc := rfl
@[simp] theorem State.withSt_i (z : Byte) : (s.withSt z).i = s.i := rfl
@[simp] theorem State.withSt_stack (z : Byte) : (s.withSt z).stack = s.stack := rfl
@[simp] theorem State.withSt_dt (z : Byte) : (s.withSt z).dt = s.dt := rfl
@[simp] theorem State.withSt_st (z : Byte) : (s.withSt z).st = z := rfl
@[simp] theorem State.withSt_mem (z : Byte) : (s.withSt z).mem = s.mem := rfl
@[simp] theorem State.withSt_display (z : Byte) : (s.withSt z).display = s.display := rfl
@[simp] theorem State.withSt_dirty (z : Byte) : (s.withSt z).dirty = s.dirty := rfl
@[simp] theorem State.withSt_keys (z : Byte) : (s.withSt z).keys = s.keys := rfl
@[simp] theorem State.withSt_fault (z : Byte) : (s.withSt z).fault = s.fault := rfl
@[simp] theorem State.withSt_draws (z : Byte) : (s.withSt z).draws = s.draws := rfl

/-! ### withMem -/

@[simp] theorem State.withMem_v (z : Memory) : (s.withMem z).v = s.v := rfl
@[simp] theorem State.withMem_pc (z : Memory) : (s.withMem z).pc = s.pc := rfl
@[simp] theorem State.withMem_i (z : Memory) : (s.withMem z).i = s.i := rfl
@[simp] theorem State.withMem_stack (z : Memory) : (s.withMem z).stack = s.stack := rfl
@[simp] theorem State.withMem_dt (z : Memory) : (s.withMem z).dt = s.dt := rfl
@[simp] theorem State.withMem_st (z : Memory) : (s.withMem z).st = s.st := rfl
@[simp] theorem State.withMem_mem (z : Memory) : (s.withMem z).mem = z := rfl
@[simp] theorem State.withMem_display (z : Memory) : (s.withMem z).display = s.display := rfl
@[simp] theorem State.withMem_dirty (z : Memory) : (s.withMem z).dirty = s.dirty := rfl
@[simp] theorem State.withMem_keys (z : Memory) : (s.withMem z).keys = s.keys := rfl
@[simp] theorem State.withMem_fault (z : Memory) : (s.withMem z).fault = s.fault := rfl
@[simp] theorem State.withMem_draws (z : Memory) : (s.withMem z).draws = s.draws := rfl

/-! ### withDisplay -/

@[simp] theorem State.withDisplay_v (z : Display) : (s.withDisplay z).v = s.v := rfl
@[simp] theorem State.withDisplay_pc (z : Display) : (s.withDisplay z).pc = s.pc := rfl
@[simp] theorem State.withDisplay_i (z : Display) : (s.withDisplay z).i = s.i := rfl
@[simp] theorem State.withDisplay_stack (z : Display) : (s.withDisplay z).stack = s.stack := rfl
@[simp] theorem State.withDisplay_dt (z : Display) : (s.withDisplay z).dt = s.dt := rfl
@[simp] theorem State.withDisplay_st (z : Display) : (s.withDisplay z).st = s.st := rfl
@[simp] theorem State.withDisplay_mem (z : Display) : (s.withDisplay z).mem = s.mem := rfl
@[simp] theorem State.withDisplay_display (z : Display) : (s.withDisplay z).display = z := rfl
@[simp] theorem State.withDisplay_dirty (z : Display) : (s.withDisplay z).dirty = s.dirty := rfl
@[simp] theorem State.withDisplay_keys (z : Display) : (s.withDisplay z).keys = s.keys := rfl
@[simp] theorem State.withDisplay_fault (z : Display) : (s.withDisplay z).fault = s.fault := rfl
@[simp] theorem State.withDisplay_draws (z : Display) : (s.withDisplay z).draws = s.draws := rfl

/-! ### withDirty -/

@[simp] theorem State.withDirty_v (z : Bool) : (s.withDirty z).v = s.v := rfl
@[simp] theorem State.withDirty_pc (z : Bool) : (s.withDirty z).pc = s.pc := rfl
@[simp] theorem State.withDirty_i (z : Bool) : (s.withDirty z).i = s.i := rfl
@[simp] theorem State.withDirty_stack (z : Bool) : (s.withDirty z).stack = s.stack := rfl
@[simp] theorem State.withDirty_dt (z : Bool) : (s.withDirty z).dt = s.dt := rfl
@[simp] theorem State.withDirty_st (z : Bool) : (s.withDirty z).st = s.st := rfl
@[simp] theorem State.withDirty_mem (z : Bool) : (s.withDirty z).mem = s.mem := rfl
@[simp] theorem State.withDirty_display (z : Bool) : (s.withDirty z).display = s.display := rfl
@[simp] theorem State.withDirty_dirty (z : Bool) : (s.withDirty z).dirty = z := rfl
@[simp] theorem State.withDirty_keys (z : Bool) : (s.withDirty z).keys = s.keys := rfl
@[simp] theorem State.withDirty_fault (z : Bool) : (s.withDirty z).fault = s.fault := rfl
@[simp] theorem State.withDirty_draws (z : Bool) : (s.withDirty z).draws = s.draws := rfl

/-! ### withKeys -/

@[simp] theorem State.withKeys_v (z : Vector Bool 16) : (s.withKeys z).v = s.v := rfl
@[simp] theorem State.withKeys_pc (z : Vector Bool 16) : (s.withKeys z).pc = s.pc := rfl
@[simp] theorem State.withKeys_i (z : Vector Bool 16) : (s.withKeys z).i = s.i := rfl
@[simp] theorem State.withKeys_stack (z : Vector Bool 16) : (s.withKeys z).stack = s.stack := rfl
@[simp] theorem State.withKeys_dt (z : Vector Bool 16) : (s.withKeys z).dt = s.dt := rfl
@[simp] theorem State.withKeys_st (z : Vector Bool 16) : (s.withKeys z).st = s.st := rfl
@[simp] theorem State.withKeys_mem (z : Vector Bool 16) : (s.withKeys z).mem = s.mem := rfl
@[simp] theorem State.withKeys_display (z : Vector Bool 16) : (s.withKeys z).display = s.display := rfl
@[simp] theorem State.withKeys_dirty (z : Vector Bool 16) : (s.withKeys z).dirty = s.dirty := rfl
@[simp] theorem State.withKeys_keys (z : Vector Bool 16) : (s.withKeys z).keys = z := rfl
@[simp] theorem State.withKeys_fault (z : Vector Bool 16) : (s.withKeys z).fault = s.fault := rfl
@[simp] theorem State.withKeys_draws (z : Vector Bool 16) : (s.withKeys z).draws = s.draws := rfl

/-! ### withFault -/

@[simp] theorem State.withFault_v (z : Option FaultRecord) : (s.withFault z).v = s.v := rfl
@[simp] theorem State.withFault_pc (z : Option FaultRecord) : (s.withFault z).pc = s.pc := rfl
@[simp] theorem State.withFault_i (z : Option FaultRecord) : (s.withFault z).i = s.i := rfl
@[simp] theorem State.withFault_stack (z : Option FaultRecord) : (s.withFault z).stack = s.stack := rfl
@[simp] theorem State.withFault_dt (z : Option FaultRecord) : (s.withFault z).dt = s.dt := rfl
@[simp] theorem State.withFault_st (z : Option FaultRecord) : (s.withFault z).st = s.st := rfl
@[simp] theorem State.withFault_mem (z : Option FaultRecord) : (s.withFault z).mem = s.mem := rfl
@[simp] theorem State.withFault_display (z : Option FaultRecord) : (s.withFault z).display = s.display := rfl
@[simp] theorem State.withFault_dirty (z : Option FaultRecord) : (s.withFault z).dirty = s.dirty := rfl
@[simp] theorem State.withFault_keys (z : Option FaultRecord) : (s.withFault z).keys = s.keys := rfl
@[simp] theorem State.withFault_fault (z : Option FaultRecord) : (s.withFault z).fault = z := rfl
@[simp] theorem State.withFault_draws (z : Option FaultRecord) : (s.withFault z).draws = s.draws := rfl

/-! ### withDraws -/

@[simp] theorem State.withDraws_v (z : Nat) : (s.withDraws z).v = s.v := rfl
@[simp] theorem State.withDraws_pc (z : Nat) : (s.withDraws z).pc = s.pc := rfl
@[simp] theorem State.withDraws_i (z : Nat) : (s.withDraws z).i = s.i := rfl
@[simp] theorem State.withDraws_stack (z : Nat) : (s.withDraws z).stack = s.stack := rfl
@[simp] theorem State.withDraws_dt (z : Nat) : (s.withDraws z).dt = s.dt := rfl
@[simp] theorem State.withDraws_st (z : Nat) : (s.withDraws z).st = s.st := rfl
@[simp] theorem State.withDraws_mem (z : Nat) : (s.withDraws z).mem = s.mem := rfl
@[simp] theorem State.withDraws_display (z : Nat) : (s.withDraws z).display = s.display := rfl
@[simp] theorem State.withDraws_dirty (z : Nat) : (s.withDraws z).dirty = s.dirty := rfl
@[simp] theorem State.withDraws_keys (z : Nat) : (s.withDraws z).keys = s.keys := rfl
@[simp] theorem State.withDraws_fault (z : Nat) : (s.withDraws z).fault = s.fault := rfl
@[simp] theorem State.withDraws_draws (z : Nat) : (s.withDraws z).draws = z := rfl

/-! ### Accessors -/

@[simp] theorem State.withPc_getV (z : Word) (x : Reg) : (s.withPc z).getV x = s.getV x := rfl
@[simp] theorem State.withI_getV (z : Word) (x : Reg) : (s.withI z).getV x = s.getV x := rfl
@[simp] theorem State.withStack_getV (z : List Word) (x : Reg) : (s.withStack z).getV x = s.getV x := rfl
@[simp] theorem State.withDt_getV (z : Byte) (x : Reg) : (s.withDt z).getV x = s.getV x := rfl
@[simp] theorem State.withSt_getV (z : Byte) (x : Reg) : (s.withSt z).getV x = s.getV x := rfl
@[simp] theorem State.withMem_getV (z : Memory) (x : Reg) : (s.withMem z).getV x = s.getV x := rfl
@[simp] theorem State.withDisplay_getV (z : Display) (x : Reg) : (s.withDisplay z).getV x = s.getV x := rfl
@[simp] theorem State.withDirty_getV (z : Bool) (x : Reg) : (s.withDirty z).getV x = s.getV x := rfl
@[simp] theorem State.withKeys_getV (z : Vector Bool 16) (x : Reg) : (s.withKeys z).getV x = s.getV x := rfl
@[simp] theorem State.withFault_getV (z : Option FaultRecord) (x : Reg) : (s.withFault z).getV x = s.getV x := rfl
@[simp] theorem State.withDraws_getV (z : Nat) (x : Reg) : (s.withDraws z).getV x = s.getV x := rfl
@[simp] theorem State.withV_sp (z : Vector Byte 16) : (s.withV z).sp = s.sp := rfl
@[simp] theorem State.withPc_sp (z : Word) : (s.withPc z).sp = s.sp := rfl
@[simp] theorem State.withI_sp (z : Word) : (s.withI z).sp = s.sp := rfl
@[simp] theorem State.withDt_sp (z : Byte) : (s.withDt z).sp = s.sp := rfl
@[simp] theorem State.withSt_sp (z : Byte) : (s.withSt z).sp = s.sp := rfl
@[simp] theorem State.withMem_sp (z : Memory) : (s.withMem z).sp = s.sp := rfl
@[simp] theorem State.withDisplay_sp (z : Display) : (s.withDisplay z).sp = s.sp := rfl
@[simp] theorem State.withDirty_sp (z : Bool) : (s.withDirty z).sp = s.sp := rfl
@[simp] theorem State.withKeys_sp (z : Vector Bool 16) : (s.withKeys z).sp = s.sp := rfl
@[simp] theorem State.withFault_sp (z : Option FaultRecord) : (s.withFault z).sp = s.sp := rfl
@[simp] theorem State.withDraws_sp (z : Nat) : (s.withDraws z).sp = s.sp := rfl
@[simp] theorem State.withV_key (z : Vector Byte 16) (k : Nat) : (s.withV z).key k = s.key k := rfl
@[simp] theorem State.withPc_key (z : Word) (k : Nat) : (s.withPc z).key k = s.key k := rfl
@[simp] theorem State.withI_key (z : Word) (k : Nat) : (s.withI z).key k = s.key k := rfl
@[simp] theorem State.withStack_key (z : List Word) (k : Nat) : (s.withStack z).key k = s.key k := rfl
@[simp] theorem State.withDt_key (z : Byte) (k : Nat) : (s.withDt z).key k = s.key k := rfl
@[simp] theorem State.withSt_key (z : Byte) (k : Nat) : (s.withSt z).key k = s.key k := rfl
@[simp] theorem State.withMem_key (z : Memory) (k : Nat) : (s.withMem z).key k = s.key k := rfl
@[simp] theorem State.withDisplay_key (z : Display) (k : Nat) : (s.withDisplay z).key k = s.key k := rfl
@[simp] theorem State.withDirty_key (z : Bool) (k : Nat) : (s.withDirty z).key k = s.key k := rfl
@[simp] theorem State.withFault_key (z : Option FaultRecord) (k : Nat) : (s.withFault z).key k = s.key k := rfl
@[simp] theorem State.withDraws_key (z : Nat) (k : Nat) : (s.withDraws z).key k = s.key k := rfl

/-! ### setV -/

@[simp] theorem State.setV_pc (x : Reg) (b : Byte) : (s.setV x b).pc = s.pc := rfl
@[simp] theorem State.setV_i (x : Reg) (b : Byte) : (s.setV x b).i = s.i := rfl
@[simp] theorem State.setV_stack (x : Reg) (b : Byte) : (s.setV x b).stack = s.stack := rfl
@[simp] theorem State.setV_dt (x : Reg) (b : Byte) : (s.setV x b).dt = s.dt := rfl
@[simp] theorem State.setV_st (x : Reg) (b : Byte) : (s.setV x b).st = s.st := rfl
@[simp] theorem State.setV_mem (x : Reg) (b : Byte) : (s.setV x b).mem = s.mem := rfl
@[simp] theorem State.setV_display (x : Reg) (b : Byte) : (s.setV x b).display = s.display := rfl
@[simp] theorem State.setV_dirty (x : Reg) (b : Byte) : (s.setV x b).dirty = s.dirty := rfl
@[simp] theorem State.setV_keys (x : Reg) (b : Byte) : (s.setV x b).keys = s.keys := rfl
@[simp] theorem State.setV_fault (x : Reg) (b : Byte) : (s.setV x b).fault = s.fault := rfl
@[simp] theorem State.setV_draws (x : Reg) (b : Byte) : (s.setV x b).draws = s.draws := rfl
@[simp] theorem State.setV_sp (x : Reg) (b : Byte) : (s.setV x b).sp = s.sp := rfl
@[simp] theorem State.setV_key (x : Reg) (b : Byte) (k : Nat) : (s.setV x b).key k = s.key k := rfl

/-! ### setVF -/

@[simp] theorem State.setVF_pc (b : Byte) : (s.setVF b).pc = s.pc := rfl
@[simp] theorem State.setVF_i (b : Byte) : (s.setVF b).i = s.i := rfl
@[simp] theorem State.setVF_stack (b : Byte) : (s.setVF b).stack = s.stack := rfl
@[simp] theorem State.setVF_dt (b : Byte) : (s.setVF b).dt = s.dt := rfl
@[simp] theorem State.setVF_st (b : Byte) : (s.setVF b).st = s.st := rfl
@[simp] theorem State.setVF_mem (b : Byte) : (s.setVF b).mem = s.mem := rfl
@[simp] theorem State.setVF_display (b : Byte) : (s.setVF b).display = s.display := rfl
@[simp] theorem State.setVF_dirty (b : Byte) : (s.setVF b).dirty = s.dirty := rfl
@[simp] theorem State.setVF_keys (b : Byte) : (s.setVF b).keys = s.keys := rfl
@[simp] theorem State.setVF_fault (b : Byte) : (s.setVF b).fault = s.fault := rfl
@[simp] theorem State.setVF_draws (b : Byte) : (s.setVF b).draws = s.draws := rfl
@[simp] theorem State.setVF_sp (b : Byte) : (s.setVF b).sp = s.sp := rfl
@[simp] theorem State.setVF_key (b : Byte) (k : Nat) : (s.setVF b).key k = s.key k := rfl

/-! ### takeFault -/

@[simp] theorem State.takeFault_v (kind : Fault) (info : Nat) : (s.takeFault kind info).v = s.v := rfl
@[simp] theorem State.takeFault_pc (kind : Fault) (info : Nat) : (s.takeFault kind info).pc = s.pc := rfl
@[simp] theorem State.takeFault_i (kind : Fault) (info : Nat) : (s.takeFault kind info).i = s.i := rfl
@[simp] theorem State.takeFault_stack (kind : Fault) (info : Nat) : (s.takeFault kind info).stack = s.stack := rfl
@[simp] theorem State.takeFault_dt (kind : Fault) (info : Nat) : (s.takeFault kind info).dt = s.dt := rfl
@[simp] theorem State.takeFault_st (kind : Fault) (info : Nat) : (s.takeFault kind info).st = s.st := rfl
@[simp] theorem State.takeFault_mem (kind : Fault) (info : Nat) : (s.takeFault kind info).mem = s.mem := rfl
@[simp] theorem State.takeFault_display (kind : Fault) (info : Nat) : (s.takeFault kind info).display = s.display := rfl
@[simp] theorem State.takeFault_dirty (kind : Fault) (info : Nat) : (s.takeFault kind info).dirty = s.dirty := rfl
@[simp] theorem State.takeFault_keys (kind : Fault) (info : Nat) : (s.takeFault kind info).keys = s.keys := rfl
@[simp] theorem State.takeFault_fault (kind : Fault) (info : Nat) : (s.takeFault kind info).fault = some ⟨kind, info, s.pc⟩ := rfl
@[simp] theorem State.takeFault_draws (kind : Fault) (info : Nat) : (s.takeFault kind info).draws = s.draws := rfl
@[simp] theorem State.takeFault_getV (kind : Fault) (info : Nat) (x : Reg) : (s.takeFault kind info).getV x = s.getV x := rfl
@[simp] theorem State.takeFault_sp (kind : Fault) (info : Nat) : (s.takeFault kind info).sp = s.sp := rfl
@[simp] theorem State.takeFault_key (kind : Fault) (info k : Nat) : (s.takeFault kind info).key k = s.key k := rfl

/-! ### direct -/

@[simp] theorem State.direct_v (d : Directive) : (s.direct d).v = s.v := by cases d <;> rfl
@[simp] theorem State.direct_i (d : Directive) : (s.direct d).i = s.i := by cases d <;> rfl
@[simp] theorem State.direct_stack (d : Directive) : (s.direct d).stack = s.stack := by cases d <;> rfl
@[simp] theorem State.direct_dt (d : Directive) : (s.direct d).dt = s.dt := by cases d <;> rfl
@[simp] theorem State.direct_st (d : Directive) : (s.direct d).st = s.st := by cases d <;> rfl
@[simp] theorem State.direct_mem (d : Directive) : (s.direct d).mem = s.mem := by cases d <;> rfl
@[simp] theorem State.direct_display (d : Directive) : (s.direct d).display = s.display := by cases d <;> rfl
@[simp] theorem State.direct_dirty (d : Directive) : (s.direct d).dirty = s.dirty := by cases d <;> rfl
@[simp] theorem State.direct_keys (d : Directive) : (s.direct d).keys = s.keys := by cases d <;> rfl
@[simp] theorem State.direct_fault (d : Directive) : (s.direct d).fault = s.fault := by cases d <;> rfl
@[simp] theorem State.direct_draws (d : Directive) : (s.direct d).draws = s.draws := by cases d <;> rfl
@[simp] theorem State.direct_getV (d : Directive) (x : Reg) : (s.direct d).getV x = s.getV x := by cases d <;> rfl
@[simp] theorem State.direct_sp (d : Directive) : (s.direct d).sp = s.sp := by cases d <;> rfl
@[simp] theorem State.direct_key (d : Directive) (k : Nat) : (s.direct d).key k = s.key k := by cases d <;> rfl
@[simp] theorem State.direct_next_pc : (s.direct .next).pc = s.pc + 2 := rfl
@[simp] theorem State.direct_skip_pc : (s.direct .skip).pc = s.pc + 4 := rfl
@[simp] theorem State.direct_hold : s.direct .hold = s := rfl

/-! ### timerStep, beginTick -/

@[simp] theorem State.timerStep_v : s.timerStep.v = s.v := rfl
@[simp] theorem State.timerStep_pc : s.timerStep.pc = s.pc := rfl
@[simp] theorem State.timerStep_i : s.timerStep.i = s.i := rfl
@[simp] theorem State.timerStep_stack : s.timerStep.stack = s.stack := rfl
@[simp] theorem State.timerStep_dt : s.timerStep.dt = timerDown s.dt := rfl
@[simp] theorem State.timerStep_st : s.timerStep.st = timerDown s.st := rfl
@[simp] theorem State.timerStep_mem : s.timerStep.mem = s.mem := rfl
@[simp] theorem State.timerStep_display : s.timerStep.display = s.display := rfl
@[simp] theorem State.timerStep_dirty : s.timerStep.dirty = s.dirty := rfl
@[simp] theorem State.timerStep_keys : s.timerStep.keys = s.keys := rfl
@[simp] theorem State.timerStep_fault : s.timerStep.fault = s.fault := rfl
@[simp] theorem State.timerStep_draws : s.timerStep.draws = s.draws := rfl
@[simp] theorem State.beginTick_v : s.beginTick.v = s.v := rfl
@[simp] theorem State.beginTick_pc : s.beginTick.pc = s.pc := rfl
@[simp] theorem State.beginTick_i : s.beginTick.i = s.i := rfl
@[simp] theorem State.beginTick_stack : s.beginTick.stack = s.stack := rfl
@[simp] theorem State.beginTick_dt : s.beginTick.dt = s.dt := rfl
@[simp] theorem State.beginTick_st : s.beginTick.st = s.st := rfl
@[simp] theorem State.beginTick_mem : s.beginTick.mem = s.mem := rfl
@[simp] theorem State.beginTick_display : s.beginTick.display = s.display := rfl
@[simp] theorem State.beginTick_dirty : s.beginTick.dirty = false := rfl
@[simp] theorem State.beginTick_keys : s.beginTick.keys = s.keys := rfl
@[simp] theorem State.beginTick_fault : s.beginTick.fault = s.fault := rfl
@[simp] theorem State.beginTick_draws : s.beginTick.draws = s.draws := rfl
@[simp] theorem State.timerStep_getV (x : Reg) : s.timerStep.getV x = s.getV x := rfl
@[simp] theorem State.timerStep_sp : s.timerStep.sp = s.sp := rfl
@[simp] theorem State.timerStep_key (k : Nat) : s.timerStep.key k = s.key k := rfl
@[simp] theorem State.beginTick_getV (x : Reg) : s.beginTick.getV x = s.getV x := rfl
@[simp] theorem State.beginTick_sp : s.beginTick.sp = s.sp := rfl
@[simp] theorem State.beginTick_key (k : Nat) : s.beginTick.key k = s.key k := rfl

end Sys2Proof.Machine
end

