-- ==== Sys2Proof/Laws/Ops.lean ====
section
/-! SUPPORT. One lemma for each shared operation that says what it can do; the proofs about instructions cite these. -/

namespace Sys2Proof.Machine

/-! ## Registers -/

@[simp] theorem State.getV_setV_same (s : State) (x : Reg) (b : Byte) : (s.setV x b).getV x = b := by
  simp [State.getV, State.setV]

theorem State.getV_setV_other (s : State) {x z : Reg} (b : Byte) (h : z ≠ x) : (s.setV x b).getV z = s.getV z := by
  have h' : x.toNat ≠ z.toNat := fun e => h (BitVec.eq_of_toNat_eq e.symm)
  simp [State.getV, State.setV, Vector.getElem_set_ne, h']

theorem State.getV_setV (s : State) (x z : Reg) (b : Byte) :
    (s.setV x b).getV z = if z = x then b else s.getV z := by
  split
  · next h => subst h; simp
  · next h => exact s.getV_setV_other b h

theorem State.getV_setVF (s : State) (z : Reg) (b : Byte) :
    (s.setVF b).getV z = if z = 0xF then b else s.getV z := s.getV_setV 0xF z b

@[simp] theorem State.length_getVs (s : State) (k n : Nat) : (s.getVs k n).length = n := by
  induction n generalizing k with
  | zero => rfl
  | succ n ih => simp [State.getVs, ih]

@[simp] theorem State.getElem_getVs (s : State) (k n j : Nat) (h : j < (s.getVs k n).length) :
    (s.getVs k n)[j] = s.getV (BitVec.ofNat 4 (k + j)) := by
  induction n generalizing k j with
  | zero => simp [State.getVs] at h
  | succ n ih =>
    cases j with
    | zero => rfl
    | succ j =>
      simp only [State.getVs, List.getElem_cons_succ]
      rw [ih, show k + 1 + j = k + (j + 1) by omega]

/-- A block load writes register k + j from byte j and no other register (k + the number of bytes at most 16). -/
theorem State.getV_setVs (s : State) (k : Nat) (bs : List Byte) (hk : k + bs.length ≤ 16) (z : Reg) :
    (s.setVs k bs).getV z =
      if h : k ≤ z.toNat ∧ z.toNat < k + bs.length then bs[z.toNat - k]'(by omega) else s.getV z := by
  induction bs generalizing s k with
  | nil => rw [dif_neg (by simp)]; rfl
  | cons b bs ih =>
    simp only [List.length_cons] at hk ⊢
    rw [State.setVs, ih _ _ (by omega)]
    have hz := z.isLt
    by_cases h1 : z.toNat = k
    · have hzk : z = BitVec.ofNat 4 k := by apply BitVec.eq_of_toNat_eq; simp; omega
      rw [dif_neg (by omega), dif_pos (by omega)]
      simp [← hzk, h1]
    · have hzk : z ≠ BitVec.ofNat 4 k := by
        intro e; apply h1; rw [e]; simp; omega
      by_cases h2 : k + 1 ≤ z.toNat ∧ z.toNat < k + 1 + bs.length
      · rw [dif_pos h2, dif_pos (by omega)]
        simp only [show z.toNat - k = (z.toNat - (k + 1)) + 1 by omega, List.getElem_cons_succ]
      · rw [dif_neg h2, dif_neg (by omega), State.getV_setV_other _ _ hzk]

/-- A block load changes nothing but V. -/
theorem State.setVs_eq (s : State) (k : Nat) (bs : List Byte) : s.setVs k bs = s.withV (s.setVs k bs).v := by
  induction bs generalizing s k with
  | nil => rfl
  | cons b bs ih => rw [State.setVs, ih]; rfl

/-! ## Directives -/

theorem State.direct_pc (s : State) (d : Directive) :
    (s.direct d).pc = match d with | .next => s.pc + 2 | .skip => s.pc + 4 | .hold => s.pc := by
  cases d <;> rfl

@[simp] theorem skipIf_true : skipIf true = .skip := rfl
@[simp] theorem skipIf_false : skipIf false = .next := rfl

/-! ## The call stack -/

theorem State.push?_eq_none (s : State) (v : Word) : s.push? v = none ↔ 16 ≤ s.sp := by
  unfold State.push?; split <;> simp_all

theorem State.push?_eq_some (s t : State) (v : Word) :
    s.push? v = some t ↔ s.sp < 16 ∧ t = s.withStack (s.stack ++ [v]) := by
  unfold State.push?
  split
  · simp; omega
  · simp only [Option.some.injEq]; constructor
    · rintro rfl; exact ⟨by omega, rfl⟩
    · rintro ⟨-, rfl⟩; rfl

theorem State.pop?_eq_none (s : State) : s.pop? = none ↔ s.sp = 0 := by
  unfold State.pop? State.sp
  cases h : s.stack.getLast? with
  | none => simp [List.getLast?_eq_none_iff.mp h]
  | some v => simp; intro e; simp [e] at h

theorem State.pop?_eq_some (s t : State) (v : Word) :
    s.pop? = some (v, t) ↔ ∃ rest, s.stack = rest ++ [v] ∧ t = s.withStack rest := by
  unfold State.pop?
  rcases List.eq_nil_or_concat s.stack with h | ⟨rest, w, h⟩
  · simp [h]
  · simp only [List.concat_eq_append] at h
    simp only [h, List.getLast?_append, List.getLast?_singleton, Option.some_or, List.dropLast_concat, Option.some.injEq,
      Prod.mk.injEq]
    constructor
    · rintro ⟨rfl, rfl⟩; exact ⟨rest, rfl, rfl⟩
    · rintro ⟨r, hr, rfl⟩
      obtain ⟨rfl, hw⟩ := List.append_inj' hr rfl
      simp only [List.cons.injEq, and_true] at hw
      exact ⟨hw, rfl⟩

/-! ## Timers and the tick's end -/

theorem timerDown_toNat (t : Byte) : (timerDown t).toNat = t.toNat - 1 := by
  unfold timerDown
  split
  · next h => simp [h]
  · next h =>
    have : t.toNat ≠ 0 := fun e => h (BitVec.eq_of_toNat_eq (by simpa using e))
    have := t.isLt
    simp only [BitVec.toNat_sub, BitVec.ofNat_eq_ofNat, BitVec.toNat_ofNat]
    omega

theorem State.endTick_of_none {s0 s : State} (h : s.fault = none) : s0.endTick s = s.timerStep := by
  simp [State.endTick, h]

theorem State.endTick_of_some {s0 s : State} {r : FaultRecord} (h : s.fault = some r) :
    s0.endTick s = s0.withFault (some r) := by
  simp [State.endTick, h]

/-! ## Addresses -/

theorem checkRange_eq_none {a n : Nat} : checkRange a n = none ↔ n = 0 ∨ a + n ≤ 4096 := by
  unfold checkRange; split <;> simp <;> omega

theorem checkRange_eq_some {a n b : Nat} : checkRange a n = some b ↔ 0 < n ∧ 4096 < a + n ∧ b = max a 4096 := by
  unfold checkRange; split <;> simp <;> omega

/-- An instruction that accesses n bytes from I answers its own result where all of them are in memory. -/
theorem State.accessing_of_le {s : State} {n : Nat} (k : Result) (h : n = 0 ∨ s.i.toNat + n ≤ 4096) :
    s.accessing n k = k := by
  have : checkRange (s.effAddr 0) n = none := checkRange_eq_none.mpr (by simpa [State.effAddr] using h)
  simp [State.accessing, this]

/-- It takes MEM_OUT_OF_BOUNDS with the lowest address out of bounds where one of them is not. -/
theorem State.accessing_of_gt {s : State} {n : Nat} (k : Result) (h0 : 0 < n) (h : 4096 < s.i.toNat + n) :
    s.accessing n k = .next (s.takeFault .memOutOfBounds (max s.i.toNat 4096)) := by
  have : checkRange (s.effAddr 0) n = some (max s.i.toNat 4096) :=
    checkRange_eq_some.mpr ⟨h0, by simpa [State.effAddr] using h, by simp [State.effAddr]⟩
  simp [State.accessing, this]

/-- Everything an accessing instruction can answer. -/
theorem State.accessing_cases (s : State) (n : Nat) (k : Result) :
    ((n = 0 ∨ s.i.toNat + n ≤ 4096) ∧ s.accessing n k = k) ∨
    (0 < n ∧ 4096 < s.i.toNat + n ∧
      s.accessing n k = .next (s.takeFault .memOutOfBounds (max s.i.toNat 4096))) := by
  by_cases h : n = 0 ∨ s.i.toNat + n ≤ 4096
  · exact .inl ⟨h, s.accessing_of_le k h⟩
  · exact .inr ⟨by omega, by omega, s.accessing_of_gt k (by omega) (by omega)⟩

/-! ## Keys -/

/-- The scan from `k` over `n` keys finds the lowest pressed key of that range. -/
theorem State.firstKey_eq_some {s : State} {k n j : Nat} :
    s.firstKey k n = some j ↔ k ≤ j ∧ j < k + n ∧ s.key j = true ∧ ∀ i, k ≤ i → i < j → s.key i = false := by
  induction n generalizing k with
  | zero => simp [State.firstKey]; omega
  | succ n ih =>
    unfold State.firstKey
    split
    · next h =>
      simp only [Option.some.injEq]
      constructor
      · rintro rfl; exact ⟨by omega, by omega, h, fun i _ _ => by omega⟩
      · rintro ⟨h1, -, -, h4⟩
        by_contra hne
        have := h4 k (le_refl _) (by omega)
        simp [h] at this
    · next h =>
      rw [ih]
      constructor
      · rintro ⟨h1, h2, h3, h4⟩
        refine ⟨by omega, by omega, h3, fun i hi hj => ?_⟩
        by_cases hik : i = k
        · subst hik; simpa using h
        · exact h4 i (by omega) hj
      · rintro ⟨h1, h2, h3, h4⟩
        have : j ≠ k := by rintro rfl; exact h h3
        exact ⟨by omega, by omega, h3, fun i hi hj => h4 i (by omega) hj⟩

theorem State.firstKey_eq_none {s : State} {k n : Nat} :
    s.firstKey k n = none ↔ ∀ i, k ≤ i → i < k + n → s.key i = false := by
  induction n generalizing k with
  | zero => simp [State.firstKey]; omega
  | succ n ih =>
    unfold State.firstKey
    split
    · next h => simp; exact ⟨k, le_refl _, by omega, h⟩
    · next h =>
      rw [ih]
      constructor
      · intro H i hi hj
        by_cases hik : i = k
        · subst hik; simpa using h
        · exact H i (by omega) (by omega)
      · intro H i hi hj; exact H i (by omega) (by omega)

/-! ## Display -/

theorem Display.get_put (d : Display) (r r' : Fin 32) (c c' : Fin 64) (p : Bool) :
    (d.put r c p).get r' c' = if r' = r ∧ c' = c then p else d.get r' c' := by
  unfold Display.put Display.get
  by_cases hr : r' = r
  · subst hr
    by_cases hc : c' = c
    · subst hc; simp
    · have : c.val ≠ c'.val := fun e => hc (Fin.ext e.symm)
      simp [Vector.getElem_set_ne, this, hc]
  · have : r.val ≠ r'.val := fun e => hr (Fin.ext e.symm)
    simp [Vector.getElem_set_ne, this, hr]

@[simp] theorem Display.get_clear (r : Fin 32) (c : Fin 64) : Display.clear.get r c = false := by
  simp [Display.clear, Display.get]

/-- Two displays with the same pixels are the same. -/
theorem Display.ext_get {d e : Display} (h : ∀ r c, d.get r c = e.get r c) : d = e := by
  apply Vector.ext; intro i hi
  apply Vector.ext; intro j hj
  exact h ⟨i, hi⟩ ⟨j, hj⟩

end Sys2Proof.Machine
end

