-- ==== Sys2Proof/Laws/PerInstr.lean ====
section
/-! SUPPORT. Per-instruction laws: the family `RowSelected` says that the encoding of an instruction selects a row of the
opcode table (R94) and that the row's fields give the instruction back (R92). -/

namespace Sys2Proof.Laws

theorem rowNNN_selects {a : Nibble} {pat : Word} (f : Addr12 → Instr) (nnn : Addr12) (h : wordNNN a 0#12 = pat) :
    (rowNNN pat f).selects (wordNNN a nnn) = true ∧ (rowNNN pat f).build (wordNNN a nnn) = f nnn := by
  simp [Row.selects, rowNNN, wordNNN_and_F000, h]

theorem rowXNN_selects {a : Nibble} {pat : Word} (f : Reg → Byte → Instr) (x : Reg) (nn : Byte) (h : wordXNN a 0#4 0#8 = pat) :
    (rowXNN pat f).selects (wordXNN a x nn) = true ∧ (rowXNN pat f).build (wordXNN a x nn) = f x nn := by
  simp [Row.selects, rowXNN, wordXNN_and_F000, h]

theorem rowXY_selects {a n : Nibble} {pat : Word} (f : Reg → Reg → Instr) (x y : Reg) (h : wordXYN a 0#4 0#4 n = pat) :
    (rowXY pat f).selects (wordXYN a x y n) = true ∧ (rowXY pat f).build (wordXYN a x y n) = f x y := by
  simp [Row.selects, rowXY, wordXYN_and_F00F, h]

theorem rowX_selects {a : Nibble} {nn : Byte} {pat : Word} (f : Reg → Instr) (x : Reg) (h : wordXNN a 0#4 nn = pat) :
    (rowX pat f).selects (wordXNN a x nn) = true ∧ (rowX pat f).build (wordXNN a x nn) = f x := by
  simp [Row.selects, rowX, wordXNN_and_F0FF, h]

/-- The encoding of `i` selects a row of the opcode table, and the row builds `i` from it. -/
def RowSelected.Statement (i : Instr) : Prop :=
  ∃ r ∈ opcodeTable, r.selects (encode i) = true ∧ r.build (encode i) = i

theorem RowSelected.cls : RowSelected.Statement .cls :=
  ⟨_, List.mem_of_getElem? (i := 0) rfl, ⟨rfl, rfl⟩⟩

theorem RowSelected.ret : RowSelected.Statement .ret :=
  ⟨_, List.mem_of_getElem? (i := 1) rfl, ⟨rfl, rfl⟩⟩

theorem RowSelected.jp (nnn : Addr12) : RowSelected.Statement (.jp nnn) :=
  ⟨_, List.mem_of_getElem? (i := 2) rfl, rowNNN_selects .jp nnn (by decide)⟩

theorem RowSelected.call (nnn : Addr12) : RowSelected.Statement (.call nnn) :=
  ⟨_, List.mem_of_getElem? (i := 3) rfl, rowNNN_selects .call nnn (by decide)⟩

theorem RowSelected.seImm (x : Reg) (nn : Byte) : RowSelected.Statement (.seImm x nn) :=
  ⟨_, List.mem_of_getElem? (i := 4) rfl, rowXNN_selects .seImm x nn (by decide)⟩

theorem RowSelected.sneImm (x : Reg) (nn : Byte) : RowSelected.Statement (.sneImm x nn) :=
  ⟨_, List.mem_of_getElem? (i := 5) rfl, rowXNN_selects .sneImm x nn (by decide)⟩

theorem RowSelected.seReg (x y : Reg) : RowSelected.Statement (.seReg x y) :=
  ⟨_, List.mem_of_getElem? (i := 6) rfl, rowXY_selects .seReg x y (by decide)⟩

theorem RowSelected.ldImm (x : Reg) (nn : Byte) : RowSelected.Statement (.ldImm x nn) :=
  ⟨_, List.mem_of_getElem? (i := 7) rfl, rowXNN_selects .ldImm x nn (by decide)⟩

theorem RowSelected.addImm (x : Reg) (nn : Byte) : RowSelected.Statement (.addImm x nn) :=
  ⟨_, List.mem_of_getElem? (i := 8) rfl, rowXNN_selects .addImm x nn (by decide)⟩

theorem RowSelected.ldReg (x y : Reg) : RowSelected.Statement (.ldReg x y) :=
  ⟨_, List.mem_of_getElem? (i := 9) rfl, rowXY_selects .ldReg x y (by decide)⟩

theorem RowSelected.orReg (x y : Reg) : RowSelected.Statement (.orReg x y) :=
  ⟨_, List.mem_of_getElem? (i := 10) rfl, rowXY_selects .orReg x y (by decide)⟩

theorem RowSelected.andReg (x y : Reg) : RowSelected.Statement (.andReg x y) :=
  ⟨_, List.mem_of_getElem? (i := 11) rfl, rowXY_selects .andReg x y (by decide)⟩

theorem RowSelected.xorReg (x y : Reg) : RowSelected.Statement (.xorReg x y) :=
  ⟨_, List.mem_of_getElem? (i := 12) rfl, rowXY_selects .xorReg x y (by decide)⟩

theorem RowSelected.addReg (x y : Reg) : RowSelected.Statement (.addReg x y) :=
  ⟨_, List.mem_of_getElem? (i := 13) rfl, rowXY_selects .addReg x y (by decide)⟩

theorem RowSelected.subReg (x y : Reg) : RowSelected.Statement (.subReg x y) :=
  ⟨_, List.mem_of_getElem? (i := 14) rfl, rowXY_selects .subReg x y (by decide)⟩

theorem RowSelected.shr (x y : Reg) : RowSelected.Statement (.shr x y) :=
  ⟨_, List.mem_of_getElem? (i := 15) rfl, rowXY_selects .shr x y (by decide)⟩

theorem RowSelected.subn (x y : Reg) : RowSelected.Statement (.subn x y) :=
  ⟨_, List.mem_of_getElem? (i := 16) rfl, rowXY_selects .subn x y (by decide)⟩

theorem RowSelected.shl (x y : Reg) : RowSelected.Statement (.shl x y) :=
  ⟨_, List.mem_of_getElem? (i := 17) rfl, rowXY_selects .shl x y (by decide)⟩

theorem RowSelected.sneReg (x y : Reg) : RowSelected.Statement (.sneReg x y) :=
  ⟨_, List.mem_of_getElem? (i := 18) rfl, rowXY_selects .sneReg x y (by decide)⟩

theorem RowSelected.ldI (nnn : Addr12) : RowSelected.Statement (.ldI nnn) :=
  ⟨_, List.mem_of_getElem? (i := 19) rfl, rowNNN_selects .ldI nnn (by decide)⟩

theorem RowSelected.jpV0 (nnn : Addr12) : RowSelected.Statement (.jpV0 nnn) :=
  ⟨_, List.mem_of_getElem? (i := 20) rfl, rowNNN_selects .jpV0 nnn (by decide)⟩

theorem RowSelected.rnd (x : Reg) (nn : Byte) : RowSelected.Statement (.rnd x nn) :=
  ⟨_, List.mem_of_getElem? (i := 21) rfl, rowXNN_selects .rnd x nn (by decide)⟩

theorem RowSelected.drw (x y : Reg) (n : Nibble) : RowSelected.Statement (.drw x y n) :=
  ⟨_, List.mem_of_getElem? (i := 22) rfl, by simp [Row.selects, encode, wordXYN_and_F000]; decide⟩

theorem RowSelected.skp (x : Reg) : RowSelected.Statement (.skp x) :=
  ⟨_, List.mem_of_getElem? (i := 23) rfl, rowX_selects .skp x (by decide)⟩

theorem RowSelected.sknp (x : Reg) : RowSelected.Statement (.sknp x) :=
  ⟨_, List.mem_of_getElem? (i := 24) rfl, rowX_selects .sknp x (by decide)⟩

theorem RowSelected.ldVxDt (x : Reg) : RowSelected.Statement (.ldVxDt x) :=
  ⟨_, List.mem_of_getElem? (i := 25) rfl, rowX_selects .ldVxDt x (by decide)⟩

theorem RowSelected.ldVxK (x : Reg) : RowSelected.Statement (.ldVxK x) :=
  ⟨_, List.mem_of_getElem? (i := 26) rfl, rowX_selects .ldVxK x (by decide)⟩

theorem RowSelected.ldDtVx (x : Reg) : RowSelected.Statement (.ldDtVx x) :=
  ⟨_, List.mem_of_getElem? (i := 27) rfl, rowX_selects .ldDtVx x (by decide)⟩

theorem RowSelected.ldStVx (x : Reg) : RowSelected.Statement (.ldStVx x) :=
  ⟨_, List.mem_of_getElem? (i := 28) rfl, rowX_selects .ldStVx x (by decide)⟩

theorem RowSelected.addI (x : Reg) : RowSelected.Statement (.addI x) :=
  ⟨_, List.mem_of_getElem? (i := 29) rfl, rowX_selects .addI x (by decide)⟩

theorem RowSelected.ldF (x : Reg) : RowSelected.Statement (.ldF x) :=
  ⟨_, List.mem_of_getElem? (i := 30) rfl, rowX_selects .ldF x (by decide)⟩

theorem RowSelected.ldB (x : Reg) : RowSelected.Statement (.ldB x) :=
  ⟨_, List.mem_of_getElem? (i := 31) rfl, rowX_selects .ldB x (by decide)⟩

theorem RowSelected.storeRegs (x : Reg) : RowSelected.Statement (.storeRegs x) :=
  ⟨_, List.mem_of_getElem? (i := 32) rfl, rowX_selects .storeRegs x (by decide)⟩

theorem RowSelected.loadRegs (x : Reg) : RowSelected.Statement (.loadRegs x) :=
  ⟨_, List.mem_of_getElem? (i := 33) rfl, rowX_selects .loadRegs x (by decide)⟩

end Sys2Proof.Laws
end

