-- ==== Sys2Proof/Laws/Raster.lean ====
section
/-! SUPPORT. What a draw does, said once: the pixels that the sprite's set bits meet are inverted, every other pixel is
kept, and the two flags are what their names say (`44_display.md` R210, R211, R214). -/

namespace Sys2Proof.Machine

/-- The eight offsets of a row land in different columns (R214). -/
theorem pixelCol_inj {X : Byte} {b b' : Nat} (hb : b < 64) (hb' : b' < 64) (h : pixelCol X b = pixelCol X b') : b = b' := by
  have := congrArg Fin.val h
  simp only [pixelCol] at this
  omega

/-- At most 32 rows land in different display rows (R214). -/
theorem pixelRow_inj {Y : Byte} {j j' : Nat} (hj : j < 32) (hj' : j' < 32) (h : pixelRow Y j = pixelRow Y j') : j = j' := by
  have := congrArg Fin.val h
  simp only [pixelRow] at this
  omega

/-- A set bit among the offsets b, …, b + k - 1 of a sprite row meets column `c`. -/
def BitMeets (X : Byte) (row : Byte) (b k : Nat) (c : Fin 64) : Prop :=
  ∃ i, b ≤ i ∧ i < b + k ∧ spriteBit row i = true ∧ pixelCol X i = c

theorem BitMeets.succ_iff {X row : Byte} {b k : Nat} {c : Fin 64} :
    BitMeets X row b (k + 1) c ↔ (spriteBit row b = true ∧ pixelCol X b = c) ∨ BitMeets X row (b + 1) k c := by
  constructor
  · rintro ⟨i, h1, h2, h3, h4⟩
    by_cases e : i = b
    · subst e; exact .inl ⟨h3, h4⟩
    · exact .inr ⟨i, by omega, by omega, h3, h4⟩
  · rintro (⟨h3, h4⟩ | ⟨i, h1, h2, h3, h4⟩)
    · exact ⟨b, le_refl _, by omega, h3, h4⟩
    · exact ⟨i, by omega, by omega, h3, h4⟩

theorem Blit.get_toggle (m : Blit) (r r' : Fin 32) (c c' : Fin 64) :
    (m.toggle r c).display.get r' c' = if r' = r ∧ c' = c then !m.display.get r c else m.display.get r' c' :=
  Display.get_put ..

/-- What the bits b, …, b + k - 1 of one row do. -/
theorem Blit.bits_spec (m : Blit) (X : Byte) (r : Fin 32) (row : Byte) (b k : Nat) (hk : b + k ≤ 8) :
    (∀ r' c', r' = r → BitMeets X row b k c' → (m.bits X r row b k).display.get r' c' = !m.display.get r' c') ∧
    (∀ r' c', ¬(r' = r ∧ BitMeets X row b k c') → (m.bits X r row b k).display.get r' c' = m.display.get r' c') ∧
    ((m.bits X r row b k).collide = true ↔
      m.collide = true ∨ ∃ c, BitMeets X row b k c ∧ m.display.get r c = true) ∧
    ((m.bits X r row b k).toggled = true ↔ m.toggled = true ∨ ∃ c, BitMeets X row b k c) := by
  induction k generalizing m b with
  | zero =>
    have hno : ∀ c, ¬BitMeets X row b 0 c := by rintro c ⟨i, h1, h2, -⟩; omega
    simp [Blit.bits, hno]
  | succ k ih =>
    obtain ⟨h1, h2, h3, h4⟩ := ih (if spriteBit row b then m.toggle r (pixelCol X b) else m) (b + 1) (by omega)
    simp only [Blit.bits, BitMeets.succ_iff]
    by_cases hb : spriteBit row b = true
    · simp only [hb, if_true] at h1 h2 h3 h4
      simp only [hb, if_true, true_and]
      have hnew : ∀ c, BitMeets X row (b + 1) k c → c ≠ pixelCol X b := by
        rintro c ⟨i, hi1, hi2, -, rfl⟩ e
        have := pixelCol_inj (by omega) (by omega) e
        omega
      refine ⟨?_, ?_, ?_, ?_⟩
      · rintro r' c' rfl (rfl | hc)
        · rw [h2 _ _ (fun h => hnew _ h.2 rfl), Blit.get_toggle]; simp
        · rw [h1 _ _ rfl hc, Blit.get_toggle, if_neg (fun h => hnew _ hc h.2)]
      · intro r' c' hn
        rw [h2 _ _ (fun h => hn ⟨h.1, .inr h.2⟩), Blit.get_toggle, if_neg (fun h => hn ⟨h.1, .inl h.2.symm⟩)]
      · rw [h3]
        simp only [Blit.toggle, Bool.or_eq_true]
        constructor
        · rintro ((h | h) | ⟨c, hc, hg⟩)
          · exact .inl h
          · exact .inr ⟨_, .inl rfl, h⟩
          · have := Blit.get_toggle m r r (pixelCol X b) c
            rw [if_neg (fun h => hnew _ hc h.2)] at this
            exact .inr ⟨c, .inr hc, by rw [← this]; exact hg⟩
        · rintro (h | ⟨c, rfl | hc, hg⟩)
          · exact .inl (.inl h)
          · exact .inl (.inr hg)
          · refine .inr ⟨c, hc, ?_⟩
            have := Blit.get_toggle m r r (pixelCol X b) c
            rw [if_neg (fun h => hnew _ hc h.2)] at this
            exact this.trans hg
      · rw [h4]; simp only [Blit.toggle, true_or, true_iff]
        exact .inr ⟨_, .inl rfl⟩
    · simp only [hb, if_false, false_and, false_or, Bool.false_eq_true] at h1 h2 h3 h4 ⊢
      exact ⟨h1, h2, h3, h4⟩

/-- A set bit of the sprite placed at (X, Y), its rows counted from `j`, meets the pixel (r, c) (R210). -/
def SpriteMeets (X Y : Byte) (j : Nat) (rows : List Byte) (r : Fin 32) (c : Fin 64) : Prop :=
  ∃ k, ∃ h : k < rows.length, pixelRow Y (j + k) = r ∧ BitMeets X rows[k] 0 8 c

theorem SpriteMeets.cons_iff {X Y row : Byte} {j : Nat} {rest : List Byte} {r : Fin 32} {c : Fin 64} :
    SpriteMeets X Y j (row :: rest) r c ↔
      (pixelRow Y j = r ∧ BitMeets X row 0 8 c) ∨ SpriteMeets X Y (j + 1) rest r c := by
  constructor
  · rintro ⟨k, h, hr, hc⟩
    cases k with
    | zero => exact .inl ⟨hr, hc⟩
    | succ k =>
      refine .inr ⟨k, by simpa using h, ?_, hc⟩
      rwa [show j + 1 + k = j + (k + 1) by omega]
  · rintro (⟨hr, hc⟩ | ⟨k, h, hr, hc⟩)
    · exact ⟨0, by simp, hr, hc⟩
    · refine ⟨k + 1, by simpa using h, ?_, hc⟩
      rwa [show j + (k + 1) = j + 1 + k by omega]

/-- What the rows of a sprite of at most 32 rows do. -/
theorem Blit.rows_spec (m : Blit) (X Y : Byte) (j : Nat) (rows : List Byte) (hj : j + rows.length ≤ 32) :
    (∀ r c, SpriteMeets X Y j rows r c → (m.rows X Y j rows).display.get r c = !m.display.get r c) ∧
    (∀ r c, ¬SpriteMeets X Y j rows r c → (m.rows X Y j rows).display.get r c = m.display.get r c) ∧
    ((m.rows X Y j rows).collide = true ↔
      m.collide = true ∨ ∃ r c, SpriteMeets X Y j rows r c ∧ m.display.get r c = true) ∧
    ((m.rows X Y j rows).toggled = true ↔ m.toggled = true ∨ ∃ r c, SpriteMeets X Y j rows r c) := by
  induction rows generalizing m j with
  | nil =>
    have hno : ∀ r c, ¬SpriteMeets X Y j [] r c := by rintro r c ⟨k, h, -⟩; simp at h
    simp [Blit.rows, hno]
  | cons row rest ih =>
    simp only [List.length_cons] at hj
    obtain ⟨b1, b2, b3, b4⟩ := m.bits_spec X (pixelRow Y j) row 0 8 (le_refl _)
    obtain ⟨h1, h2, h3, h4⟩ := ih (m.bits X (pixelRow Y j) row 0 8) (j + 1) (by omega)
    have hnew : ∀ r c, SpriteMeets X Y (j + 1) rest r c → r ≠ pixelRow Y j := by
      rintro r c ⟨k, hk, rfl, -⟩ e
      have := pixelRow_inj (by omega) (by omega) e
      omega
    simp only [Blit.rows, SpriteMeets.cons_iff]
    refine ⟨?_, ?_, ?_, ?_⟩
    · rintro r c (⟨rfl, hc⟩ | hc)
      · rw [h2 _ _ (fun h => hnew _ _ h rfl), b1 _ _ rfl hc]
      · rw [h1 _ _ hc, b2 _ _ (fun h => hnew _ _ hc h.1)]
    · intro r c hn
      rw [h2 _ _ (fun h => hn (.inr h)), b2 _ _ (fun h => hn (.inl ⟨h.1.symm, h.2⟩))]
    · rw [h3, b3]
      constructor
      · rintro ((h | ⟨c, hc, hg⟩) | ⟨r, c, hm, hg⟩)
        · exact .inl h
        · exact .inr ⟨_, c, .inl ⟨rfl, hc⟩, hg⟩
        · rw [b2 _ _ (fun h => hnew _ _ hm h.1)] at hg
          exact .inr ⟨r, c, .inr hm, hg⟩
      · rintro (h | ⟨r, c, ⟨rfl, hc⟩ | hm, hg⟩)
        · exact .inl (.inl h)
        · exact .inl (.inr ⟨c, hc, hg⟩)
        · exact .inr ⟨r, c, hm, by rw [b2 _ _ (fun h => hnew _ _ hm h.1)]; exact hg⟩
    · rw [h4, b4]
      constructor
      · rintro ((h | ⟨c, hc⟩) | ⟨r, c, hm⟩)
        · exact .inl h
        · exact .inr ⟨_, c, .inl ⟨rfl, hc⟩⟩
        · exact .inr ⟨r, c, .inr hm⟩
      · rintro (h | ⟨r, c, ⟨-, hc⟩ | hm⟩)
        · exact .inl (.inl h)
        · exact .inl (.inr ⟨c, hc⟩)
        · exact .inr ⟨r, c, hm⟩

end Sys2Proof.Machine
end

