-- ==== Sys2Proof/Laws/Tick.lean ====
section
/-! SUPPORT. The laws of the tick: what fetch and decode give, what a step is in each of its three cases, and the inversion
of a step (`step_cases`), which later proofs cite instead of unfolding `step`. -/

namespace Sys2Proof.Machine

theorem State.fetchDecode_beginTick (s : State) : s.beginTick.fetchDecode = s.fetchDecode := rfl

theorem State.fetch?_of_lt {s : State} (h : s.pc.toNat + 1 < 4096) :
    s.fetch? = some [s.mem.read s.pc.toNat, s.mem.read (s.pc.toNat + 1)] := by
  unfold State.fetch?
  rw [if_neg (by omega)]

theorem State.fetch?_of_ge {s : State} (h : 4096 ≤ s.pc.toNat + 1) : s.fetch? = none := by
  unfold State.fetch?
  rw [if_pos h]

theorem State.fetchDecode_of_ge {s : State} (h : 4096 ≤ s.pc.toNat + 1) :
    s.fetchDecode = .raised .fetchOutOfBounds s.pc.toNat := by
  simp [State.fetchDecode, State.fetch?_of_ge h]

theorem State.fetchDecode_of_insn {s : State} {hi lo : Byte} {ins : Instr} (hf : s.fetch? = some [hi, lo])
    (hd : decodeOp (opcodeOf hi lo) = .insn ins) : s.fetchDecode = .insn ins := by
  simp [State.fetchDecode, hf, hd]

theorem State.fetchDecode_of_illegal {s : State} {hi lo : Byte} {op : Word} (hf : s.fetch? = some [hi, lo])
    (hd : decodeOp (opcodeOf hi lo) = .illegal op) : s.fetchDecode = .raised .decodeError op.toNat := by
  simp [State.fetchDecode, hf, hd]

/-- No opcode decodes to `truncated`. -/
theorem decodeOp_ne_truncated (op : Word) : decodeOp op ≠ .truncated := by
  unfold decodeOp
  split <;> simp

/-- What fetch and decode can give a state whose PC can be fetched from. -/
theorem State.fetchDecode_cases {s : State} (h : s.pc.toNat + 1 < 4096) :
    (∃ ins, decodeOp (opcodeOf (s.mem.read s.pc.toNat) (s.mem.read (s.pc.toNat + 1))) = .insn ins ∧
      s.fetchDecode = .insn ins) ∨
    (∃ op, decodeOp (opcodeOf (s.mem.read s.pc.toNat) (s.mem.read (s.pc.toNat + 1))) = .illegal op ∧
      s.fetchDecode = .raised .decodeError op.toNat) := by
  cases hd : decodeOp (opcodeOf (s.mem.read s.pc.toNat) (s.mem.read (s.pc.toNat + 1))) with
  | insn ins => exact .inl ⟨ins, rfl, State.fetchDecode_of_insn (State.fetch?_of_lt h) hd⟩
  | illegal op => exact .inr ⟨op, rfl, State.fetchDecode_of_illegal (State.fetch?_of_lt h) hd⟩
  | truncated => exact absurd hd (decodeOp_ne_truncated _)

theorem step_of_raised {s : State} {kind : Fault} {info : Nat} (hn : s.fault = none)
    (hf : s.fetchDecode = .raised kind info) : step s = .next (s.withFault (some ⟨kind, info, s.pc⟩)) := by
  simp only [step, State.tick, hn, State.runTick, State.fetchDecode_beginTick, hf]
  rfl

theorem step_of_insn {s t : State} {ins : Instr} (hn : s.fault = none) (hf : s.fetchDecode = .insn ins)
    (he : exec ins s.beginTick = .next t) : step s = .next (s.endTick t) := by
  simp only [step, State.tick, hn, State.runTick, State.fetchDecode_beginTick, hf, he]

/-- The inversion of a step: the block had a fault and nothing changes; or fetch or decode raised one; or the decoded
instruction ran on the state with DIRTY cleared and the tick's end followed. -/
theorem step_cases {s t : State} (h : step s = .next t) :
    ((∃ r, s.fault = some r) ∧ t = s) ∨
    (s.fault = none ∧ ∃ kind info, s.fetchDecode = .raised kind info ∧ t = s.withFault (some ⟨kind, info, s.pc⟩)) ∨
    (s.fault = none ∧ ∃ ins u, s.fetchDecode = .insn ins ∧ exec ins s.beginTick = .next u ∧ t = s.endTick u) := by
  cases hn : s.fault with
  | some r =>
    simp only [step, State.tick, hn, Host.Outcome.next.injEq] at h
    exact .inl ⟨⟨r, rfl⟩, h.symm⟩
  | none =>
    cases hf : s.fetchDecode with
    | raised kind info =>
      rw [step_of_raised hn hf, Host.Outcome.next.injEq] at h
      exact .inr (.inl ⟨rfl, kind, info, rfl, h.symm⟩)
    | insn ins =>
      simp only [step, State.tick, hn, State.runTick, State.fetchDecode_beginTick, hf] at h
      cases he : exec ins s.beginTick with
      | next u =>
        simp only [he, Host.Outcome.next.injEq] at h
        exact .inr (.inr ⟨rfl, ins, u, rfl, he, h.symm⟩)
      | fault r => simp [he] at h
      | refused r => simp [he] at h

/-- Two bytes stored where the next tick fetches are the two it fetches. -/
theorem State.fetch?_placeOpcode {s : State} (hw : s.mem.wf = true) (op : Word) :
    (s.placeOpcode op).fetch? = some [highByte op, lowByte op] := by
  have hp : s.fetchPlace.toNat + 1 < 4096 := by
    unfold State.fetchPlace
    split
    · decide
    · omega
  have h0 := Memory.read_writeList_inside hw (a := s.fetchPlace.toNat) [highByte op, lowByte op] (by simp; omega) (k := 0) (by simp)
  have h1 := Memory.read_writeList_inside hw (a := s.fetchPlace.toNat) [highByte op, lowByte op] (by simp; omega) (k := 1) (by simp)
  simp only [Nat.add_zero, List.getElem_cons_zero, List.getElem_cons_succ] at h0 h1
  rw [State.fetch?_of_lt (by simpa [State.placeOpcode] using hp)]
  simp only [State.placeOpcode, State.withFault_mem, State.withFault_pc, State.withPc_mem, State.withPc_pc, State.withMem_mem,
    h0, h1]

end Sys2Proof.Machine
end

