-- ==== Sys2Proof/Tests/Slice0.lean ====
section
/-! SUPPORT. Tests. Expected results come from the spec: the worked examples W1 to W10 and the derived vectors of
`95_test_vectors.md`, the encodings of `30_encoding.md` R94. The last part shows, for every statement of
`Certificates/Slice0/Obligations.lean` that has hypotheses, a concrete state and operands that meet them. -/

namespace Sys2Proof.Tests

open Sys2Proof Sys2Proof.Machine

/-! ## Helpers -/

/-- The reset state with some registers set. -/
def withRegs (regs : List (Reg × Byte)) : State := regs.foldl (fun s p => s.setV p.1 p.2) State.reset

/-- A state with bytes in memory at `a` and I there. -/
def dataAt (s : State) (a : Nat) (bytes : List Byte) : State :=
  (s.withMem (s.mem.writeList a bytes)).withI (BitVec.ofNat 16 a)

/-- The result is a next state of which `p` holds. -/
def holds (r : Result) (p : State → Bool) : Bool :=
  match r with
  | .next t => p t
  | _ => false

/-- One tick that fetches the opcode `w` in `s`. -/
def ran (s : State) (w : Nat) (p : State → Bool) : Bool := holds (step (s.withFetchWord 16 w)) p

theorem exists_of_holds {r : Result} {p : State → Bool} (h : holds r p = true) : ∃ t, r = .next t ∧ p t = true := by
  cases r with
  | next t => exact ⟨t, rfl, h⟩
  | fault f => simp [holds] at h
  | refused f => simp [holds] at h

/-- The pixels of row `r` that are on, in ascending column order. -/
def onCols (s : State) (r : Fin 32) : List Nat := ((List.finRange 64).filter (s.display.get r ·)).map (·.val)

/-! ## Well-formedness: one ill-formed opcode word for each check of R98 -/

theorem test_wellFormed_family0 : WellFormed.family0 0x0123 = false ∧ WellFormed.opcode 0x00E1 = false := by decide
theorem test_wellFormed_family5 : WellFormed.family59 5 0x5121 = false ∧ WellFormed.opcode 0x5121 = false := by decide
theorem test_wellFormed_family8 : WellFormed.family8 0x8128 = false ∧ WellFormed.opcode 0x812D = false := by decide
theorem test_wellFormed_family9 : WellFormed.family59 9 0x9121 = false ∧ WellFormed.opcode 0x9121 = false := by decide
theorem test_wellFormed_familyE : WellFormed.familyE 0xE19F = false ∧ WellFormed.opcode 0xE19F = false := by decide
theorem test_wellFormed_familyF : WellFormed.familyF 0xF1FF = false ∧ WellFormed.opcode 0xF100 = false := by decide

/-! ## Decoding: a word of every constructor, written bit by bit from R94 -/

theorem test_decode_control :
    decode [0b00000000#8, 0b11101110#8] = .insn .ret ∧
    decode [0b00011010#8, 0b10111100#8] = .insn (.jp 0xABC) ∧
    decode [0b00100011#8, 0b00000001#8] = .insn (.call 0x301) ∧
    decode [0b00110011#8, 0b01000010#8] = .insn (.seImm 3 0x42) ∧
    decode [0b01000011#8, 0b01000010#8] = .insn (.sneImm 3 0x42) ∧
    decode [0b01010001#8, 0b00100000#8] = .insn (.seReg 1 2) ∧
    decode [0b10010001#8, 0b00100000#8] = .insn (.sneReg 1 2) ∧
    decode [0b10110101#8, 0b00000001#8] = .insn (.jpV0 0x501) := by decide

theorem test_decode_alu_plain :
    decode [0b01101010#8, 0b11111110#8] = .insn (.ldImm 0xA 0xFE) ∧
    decode [0b01110000#8, 0b00000011#8] = .insn (.addImm 0 3) ∧
    decode [0b10000001#8, 0b00100000#8] = .insn (.ldReg 1 2) ∧
    decode [0b10000001#8, 0b00100001#8] = .insn (.orReg 1 2) ∧
    decode [0b10000001#8, 0b00100010#8] = .insn (.andReg 1 2) ∧
    decode [0b10000001#8, 0b00100011#8] = .insn (.xorReg 1 2) ∧
    decode [0b11000011#8, 0b00001111#8] = .insn (.rnd 3 0x0F) := by decide

theorem test_decode_alu_flag :
    decode [0b10000001#8, 0b00100100#8] = .insn (.addReg 1 2) ∧
    decode [0b10000001#8, 0b00100101#8] = .insn (.subReg 1 2) ∧
    decode [0b10000001#8, 0b00100110#8] = .insn (.shr 1 2) ∧
    decode [0b10000001#8, 0b00100111#8] = .insn (.subn 1 2) ∧
    decode [0b10000001#8, 0b00101110#8] = .insn (.shl 1 2) := by decide

theorem test_decode_index_memory :
    decode [0b10100001#8, 0b00100011#8] = .insn (.ldI 0x123) ∧
    decode [0b11110010#8, 0b00011110#8] = .insn (.addI 2) ∧
    decode [0b11111001#8, 0b00101001#8] = .insn (.ldF 9) ∧
    decode [0b11110110#8, 0b00110011#8] = .insn (.ldB 6) ∧
    decode [0b11110010#8, 0b01010101#8] = .insn (.storeRegs 2) ∧
    decode [0b11110100#8, 0b01100101#8] = .insn (.loadRegs 4) := by decide

theorem test_decode_display :
    decode [0b00000000#8, 0b11100000#8] = .insn .cls ∧
    decode [0b11010101#8, 0b01101111#8] = .insn (.drw 5 6 15) := by decide

theorem test_decode_timers_keys :
    decode [0b11100101#8, 0b10011110#8] = .insn (.skp 5) ∧
    decode [0b11100111#8, 0b10100001#8] = .insn (.sknp 7) ∧
    decode [0b11110001#8, 0b00000111#8] = .insn (.ldVxDt 1) ∧
    decode [0b11110011#8, 0b00001010#8] = .insn (.ldVxK 3) ∧
    decode [0b11110000#8, 0b00010101#8] = .insn (.ldDtVx 0) ∧
    decode [0b11111111#8, 0b00011000#8] = .insn (.ldStVx 0xF) := by decide

/-- The illegal opcodes of `95_test_vectors.md` 2.1. -/
theorem test_decode_illegal :
    [0x0000#16, 0x0123#16, 0x00E1#16, 0x5121#16, 0x8128#16, 0x812D#16, 0x812F#16, 0x9121#16, 0xE19F#16, 0xF1FF#16,
      0xF100#16].all (fun op => decide (decode [highByte op, lowByte op] = .illegal op)) = true := by decide

theorem test_decodeTableWord : decodeTableWord 16 0x1234 = some (.jp 0x234) ∧ decodeTableWord 16 0 = none := by decide

/-! ## The tick (`95_test_vectors.md` 2.1) -/

/-- PC = 0xFFF: FETCH_OUT_OF_BOUNDS(0xFFF). -/
theorem test_fetch_top : holds (step (State.reset.withPc 0xFFF)) (fun t =>
    decide (t = (State.reset.withPc 0xFFF).withFault (some ⟨.fetchOutOfBounds, 0xFFF, 0xFFF⟩))) = true := by decide

/-- PC = 0xFFE is the last place of an opcode. -/
theorem test_fetch_last : ran (State.reset.withPc 0xFFE) 0x1200 (fun t => t.pc == 0x200 && t.fault.isNone) = true := by
  decide

/-- An odd PC. -/
theorem test_fetch_odd : ran (State.reset.withPc 0x201) 0x6007 (fun t => t.getV 0 == 7 && t.pc == 0x203) = true := by
  decide

/-- M[PC..] = 00 00 with DT = 5: DECODE_ERROR(0x0000), no timer step. -/
theorem test_decode_fault : holds (step (State.reset.withDt 5)) (fun t =>
    decide (t.fault = some ⟨.decodeError, 0, 0x200⟩) && t.dt == 5) = true := by decide

/-- DT = 1, ST = 2 and a jump: DT = 0, ST = 1. -/
theorem test_timers_step : ran ((State.reset.withDt 1).withSt 2) 0x1200 (fun t => t.dt == 0 && t.st == 1) = true := by
  decide

/-- DT = ST = 0 do not wrap; DIRTY is cleared. -/
theorem test_timers_at_zero : ran (State.reset.withDirty true) 0x1200 (fun t => t.dt == 0 && t.st == 0 && !t.dirty) = true := by
  decide

/-- A block with a fault changes nothing. -/
theorem test_fault_sticky : holds (step (State.reset.withFault (some ⟨.decodeError, 0, 0x200⟩))) (fun t =>
    decide (t = State.reset.withFault (some ⟨.decodeError, 0, 0x200⟩))) = true := by decide

/-- P1's bytes as a load: `60 00` at 0x200 runs first. -/
theorem test_load_then_step : holds (step (State.reset.load [0x60, 0x05])) (fun t => t.getV 0 == 5 && t.pc == 0x202) = true := by
  decide

/-! ## One step of each instruction (`95_test_vectors.md` 1 and 2.2 to 2.6) -/

theorem test_jp : ran (State.reset) 0x1ABC (fun t =>
    t.pc == 0xABC) = true := by decide

theorem test_jp_self : ran (State.reset) 0x1200 (fun t =>
    t.pc == 0x200) = true := by decide

theorem test_call : ran (State.reset.withPc 0xFFE) 0x2300 (fun t =>
    t.pc == 0x300 && t.stack == [0x1000]) = true := by decide

theorem test_call_overflow : ran (State.reset.withStack (List.replicate 16 0x202)) 0x2300 (fun t =>
    decide (t.fault = some ⟨.stackOverflow, 0x200, 0x200⟩) && t.sp == 16) = true := by decide

theorem test_ret : ran (State.reset.withStack [0x123, 0x456]) 0x00EE (fun t =>
    t.pc == 0x456 && t.stack == [0x123]) = true := by decide

theorem test_ret_underflow : ran (State.reset) 0x00EE (fun t =>
    decide (t.fault = some ⟨.stackUnderflow, 0x200, 0x200⟩)) = true := by decide

theorem test_jpV0 : ran (withRegs [(0, 0xFF)]) 0xBFFF (fun t =>
    t.pc == 0x10FE && t.fault.isNone) = true := by decide

theorem test_jpV0_n1_is_no_register : ran (withRegs [(0, 0x02), (5, 0x40)]) 0xB500 (fun t =>
    t.pc == 0x502) = true := by decide

theorem test_seImm : ran (withRegs [(3, 0x42)]) 0x3342 (fun t =>
    t.pc == 0x204) = true := by decide

theorem test_seImm_unequal : ran (withRegs [(3, 0x41)]) 0x3342 (fun t =>
    t.pc == 0x202) = true := by decide

theorem test_sneImm : ran (withRegs [(3, 0x41)]) 0x4342 (fun t =>
    t.pc == 0x204) = true := by decide

theorem test_sneImm_equal : ran (withRegs [(3, 0x42)]) 0x4342 (fun t =>
    t.pc == 0x202) = true := by decide

theorem test_seReg : ran (withRegs [(1, 9), (2, 9)]) 0x5120 (fun t =>
    t.pc == 0x204) = true := by decide

theorem test_seReg_unequal : ran (withRegs [(1, 9), (2, 8)]) 0x5120 (fun t =>
    t.pc == 0x202) = true := by decide

theorem test_sneReg : ran (withRegs [(1, 9), (2, 8)]) 0x9120 (fun t =>
    t.pc == 0x204) = true := by decide

theorem test_sneReg_same : ran (State.reset) 0x9110 (fun t =>
    t.pc == 0x202) = true := by decide

theorem test_ldImm : ran (withRegs [(0xF, 0x5A)]) 0x6AFF (fun t =>
    t.getV 0xA == 0xFF && t.getV 0xF == 0x5A) = true := by decide

/-- No carry flag. -/
theorem test_addImm : ran (withRegs [(0xF, 0x5A), (0, 0xFF)]) 0x7001 (fun t =>
    t.getV 0 == 0 && t.getV 0xF == 0x5A) = true := by decide

theorem test_addImm_W4 : ran (withRegs [(0, 5)]) 0x7003 (fun t =>
    t.getV 0 == 8 && t.pc == 0x202) = true := by decide

theorem test_ldReg : ran (withRegs [(0xF, 0x5A), (1, 0x2A)]) 0x8010 (fun t =>
    t.getV 0 == 0x2A && t.getV 0xF == 0x5A) = true := by decide

theorem test_orReg : ran (withRegs [(0xF, 0x5A), (0, 0xF0), (1, 0x0F)]) 0x8011 (fun t =>
    t.getV 0 == 0xFF && t.getV 0xF == 0x5A) = true := by decide

theorem test_andReg : ran (withRegs [(0xF, 0x5A), (0, 0xF0), (1, 0x3C)]) 0x8012 (fun t =>
    t.getV 0 == 0x30 && t.getV 0xF == 0x5A) = true := by decide

theorem test_xorReg : ran (withRegs [(0xF, 0x5A), (0, 0xF0), (1, 0x3C)]) 0x8013 (fun t =>
    t.getV 0 == 0xCC && t.getV 0xF == 0x5A) = true := by decide

theorem test_addReg_W1 : ran (withRegs [(0, 0xC8), (1, 0x64)]) 0x8014 (fun t =>
    t.getV 0 == 0x2C && t.getV 0xF == 1) = true := by decide

/-- x = F: the sum 2 is overwritten by the flag 0. -/
theorem test_addReg_flag_last : ran (withRegs [(0xF, 0x01), (1, 0x01)]) 0x8F14 (fun t =>
    t.getV 0xF == 0) = true := by decide

theorem test_subReg_W2 : ran (withRegs [(0, 5), (1, 7)]) 0x8015 (fun t =>
    t.getV 0 == 0xFE && t.getV 0xF == 0) = true := by decide

theorem test_subReg_equal : ran (withRegs [(0, 5), (1, 5)]) 0x8015 (fun t =>
    t.getV 0 == 0 && t.getV 0xF == 1) = true := by decide

theorem test_shr : ran (withRegs [(0, 0x05), (1, 0xFF)]) 0x8016 (fun t =>
    t.getV 0 == 0x02 && t.getV 0xF == 1) = true := by decide

theorem test_shr_flag_last : ran (withRegs [(0xF, 0x03)]) 0x8F06 (fun t =>
    t.getV 0xF == 1) = true := by decide

theorem test_subn : ran (withRegs [(0, 0x07), (1, 0x05)]) 0x8017 (fun t =>
    t.getV 0 == 0xFE && t.getV 0xF == 0) = true := by decide

theorem test_subn_same : ran (withRegs [(0, 0x44)]) 0x8007 (fun t =>
    t.getV 0 == 0 && t.getV 0xF == 1) = true := by decide

theorem test_shl : ran (withRegs [(0, 0x81)]) 0x800E (fun t =>
    t.getV 0 == 0x02 && t.getV 0xF == 1) = true := by decide

theorem test_shl_flag_last : ran (withRegs [(0xF, 0x80)]) 0x8F0E (fun t =>
    t.getV 0xF == 1) = true := by decide

/-- rand = 0xA7, C30F: V3 = 0x07. The drawn byte is given; the step supplies it from the free stream. -/
theorem test_rnd : holds (State.reset.randAnd 3 0x0F 0xA7) (fun t => t.getV 3 == 7 && t.pc == 0x202) = true := by decide

theorem test_ldI : ran (State.reset) 0xA123 (fun t =>
    t.i == 0x123 && t.pc == 0x202) = true := by decide

theorem test_addI : ran ((withRegs [(0, 0x01), (0xF, 0x5A)]).withI 0xFFFF) 0xF01E (fun t =>
    t.i == 0 && t.getV 0xF == 0x5A && t.fault.isNone) = true := by decide

theorem test_addI_beyond : ran ((withRegs [(0, 0x01)]).withI 0x0FFF) 0xF01E (fun t =>
    t.i == 0x1000 && t.fault.isNone) = true := by decide

theorem test_ldF : ran (withRegs [(0, 0x0F)]) 0xF029 (fun t =>
    t.i == 0x04B) = true := by decide

/-- W8. -/
theorem test_ldB : ran (dataAt (withRegs [(0, 0xEA)]) 0x300 []) 0xF033 (fun t =>
    t.mem.readList 0x300 3 == [2, 3, 4]) = true := by decide

theorem test_ldB_beyond : ran ((withRegs [(0, 0xEA)]).withI 0xFFE) 0xF033 (fun t =>
    decide (t.fault = some ⟨.memOutOfBounds, 0x1000, 0x200⟩)) = true := by decide

theorem test_storeRegs : ran (dataAt (withRegs [(0, 1), (1, 2), (2, 3), (3, 4)]) 0x300 []) 0xF255 (fun t =>
    t.mem.readList 0x300 4 == [1, 2, 3, 0] && t.i == 0x300) = true := by decide

theorem test_storeRegs_beyond : ran (State.reset.withI 0x1234) 0xF055 (fun t =>
    decide (t.fault = some ⟨.memOutOfBounds, 0x1234, 0x200⟩)) = true := by decide

theorem test_loadRegs : ran (dataAt (withRegs [(3, 9)]) 0x300 [2, 3, 4, 5]) 0xF265 (fun t =>
    t.getVs 0 4 == [2, 3, 4, 9] && t.i == 0x300) = true := by decide

theorem test_loadRegs_vf : ran (dataAt State.reset 0x30F [0x99] |>.withI 0x300) 0xFF65 (fun t =>
    t.getV 0xF == 0x99) = true := by decide

/-- W10: always dirty. -/
theorem test_cls : ran ((State.reset.withDisplay (State.reset.display.put 3 4 true)).setV 0xF 1) 0x00E0 (fun t =>
    onCols t 3 == [] && t.dirty && t.getV 0xF == 1) = true := by decide

theorem test_drw_W6 : ran (dataAt (withRegs [(0, 63), (1, 0)]) 0x300 [0xFF]) 0xD011 (fun t =>
    onCols t 0 == [0, 1, 2, 3, 4, 5, 6, 63] && t.getV 0xF == 0 && t.dirty) = true := by decide

/-- Coordinates beyond the screen wrap; a pixel already on goes off and VF is 1. -/
theorem test_drw_collision : ran ((dataAt (withRegs [(0, 0x43), (1, 0x21)]) 0x300 [0x80]).withDisplay (State.reset.display.put 1 3 true)) 0xD011 (fun t =>
    onCols t 1 == [] && t.getV 0xF == 1 && t.dirty) = true := by decide

theorem test_ldVxDt : ran (State.reset.withDt 4) 0xF107 (fun t =>
    t.getV 1 == 4 && t.dt == 3) = true := by decide

theorem test_ldDtVx : ran (withRegs [(0, 5)]) 0xF015 (fun t =>
    t.dt == 4 && t.st == 0) = true := by decide

theorem test_ldStVx : ran (withRegs [(0, 2)]) 0xF018 (fun t =>
    t.st == 1 && t.dt == 0) = true := by decide

theorem test_skp : ran ((withRegs [(5, 3)]).setKey 3 true) 0xE59E (fun t =>
    t.pc == 0x204) = true := by decide

theorem test_skp_no_key : ran (withRegs [(5, 0x10)]) 0xE59E (fun t =>
    decide (t.fault = some ⟨.keyOutOfBounds, 0x10, 0x200⟩)) = true := by decide

theorem test_sknp : ran ((withRegs [(5, 3)]).setKey 3 true) 0xE5A1 (fun t =>
    t.pc == 0x202) = true := by decide

theorem test_sknp_no_key : ran (withRegs [(5, 0xFF)]) 0xE5A1 (fun t =>
    decide (t.fault = some ⟨.keyOutOfBounds, 0xFF, 0x200⟩)) = true := by decide

theorem test_ldVxK : ran ((State.reset.setKey 5 true).setKey 2 true) 0xF30A (fun t =>
    t.getV 3 == 2 && t.pc == 0x202) = true := by decide

theorem test_ldVxK_waits : ran ((withRegs [(3, 7)]).withDt 2) 0xF30A (fun t =>
    t.getV 3 == 7 && t.pc == 0x200 && t.dt == 1) = true := by decide

/-! ## Witnesses: the hypotheses of each statement can be met -/

/-- A legal state whose next opcode is `w`. -/
def at200 (w : Nat) : State := State.reset.withFetchWord 16 w

theorem witness_EncodeOfDecode : decodeOp 0x1234 = .insn (.jp 0x234) := by decide

theorem witness_DecoderFollowsOpcodeTable :
    (∃ row ∈ opcodeTable, 0xFF65#16 &&& row.mask = row.pat) ∧ (∀ row ∈ opcodeTable, 0x0123#16 &&& row.mask ≠ row.pat) := by
  decide

/-- At the edge of the first range of R98: 0x0FFF is ill formed, 0x1000 well formed. -/
theorem witness_IllegalOpcodesAreExactlyTheListedOnes :
    WellFormed.opcode 0x0FFF = false ∧ WellFormed.opcode 0x1000 = true := by decide

/-- An instruction that raises no fault, at the last place it can be fetched from; one that raises one and may write memory;
and one that raises one and may write none of memory, V or DISP. -/
theorem witness_StepRunsDecodedInstruction :
    (∃ s t : State, s.fault = none ∧ s.pc.toNat + 1 < 4096 ∧
      decode [s.mem.read s.pc.toNat, s.mem.read (s.pc.toNat + 1)] = .insn (.jp 0x200) ∧
      exec (.jp 0x200) (s.withDirty false) = .next t ∧ t.fault = none) ∧
    (∃ (s t : State) (r : FaultRecord), s.fault = none ∧ s.pc.toNat + 1 < 4096 ∧
      decode [s.mem.read s.pc.toNat, s.mem.read (s.pc.toNat + 1)] = .insn (.storeRegs 1) ∧
      exec (.storeRegs 1) (s.withDirty false) = .next t ∧ t.fault = some r) ∧
    (∃ (s t : State) (r : FaultRecord), s.fault = none ∧ s.pc.toNat + 1 < 4096 ∧
      decode [s.mem.read s.pc.toNat, s.mem.read (s.pc.toNat + 1)] = .insn .ret ∧
      exec .ret (s.withDirty false) = .next t ∧ t.fault = some r ∧
      ∀ p, mayWrite .ret s p → p = .pc ∨ p = .stack ∨ p = .fault) :=
  ⟨⟨(State.reset.withPc 0xFFE).withFetchWord 16 0x1200, _, by decide, by decide, by decide, rfl, by decide⟩,
   ⟨(at200 0xF155).withI 0xFFF, _, _, by decide, by decide, by decide, rfl, rfl⟩,
   ⟨at200 0x00EE, _, _, by decide, by decide, by decide, rfl, rfl, fun _ h => h⟩⟩

theorem witness_FetchIsBigEndianAndBounded :
    (State.reset.withPc 0xFFE).pc.toNat + 1 < 4096 ∧
    (State.reset.withPc 0xFFF).fault = none ∧ 4096 ≤ (State.reset.withPc 0xFFF).pc.toNat + 1 := by decide

theorem witness_DecodeErrorCarriesOpcode :
    ((at200 0x1234).fetch? = some [0x12, 0x34] ∧ ∃ row ∈ opcodeTable, opcodeOf 0x12 0x34 &&& row.mask = row.pat) ∧
    ((at200 0x0123).fetch? = some [0x01, 0x23] ∧ (at200 0x0123).fault = none ∧
      ∀ row ∈ opcodeTable, opcodeOf 0x01 0x23 &&& row.mask ≠ row.pat) := by decide

theorem witness_FaultIsSticky : ∃ (s : State) (r : FaultRecord), s.fault = some r :=
  ⟨State.reset.withFault (some ⟨.decodeError, 0, 0x200⟩), _, rfl⟩

/-- A state without a fault, its tick and the record the tick leaves. -/
def faulting (s : State) (r : FaultRecord) : Prop := s.fault = none ∧ ∃ t, step s = .next t ∧ t.fault = some r

theorem faulting_of {s : State} {r : FaultRecord} (hn : s.fault = none)
    (h : holds (step s) (fun t => decide (t.fault = some r)) = true) : faulting s r :=
  match exists_of_holds h with
  | ⟨t, h1, h2⟩ => ⟨hn, t, h1, of_decide_eq_true h2⟩

theorem witness_FaultingTickRestoresState : faulting (State.reset.withPc 0xFFF) ⟨.fetchOutOfBounds, 0xFFF, 0xFFF⟩ :=
  faulting_of (by decide) (by decide)

/-- One for each kind, at the edge where it begins. -/
theorem witness_EachFaultHasItsRaiser :
    faulting (State.reset.withPc 0xFFF) ⟨.fetchOutOfBounds, 0xFFF, 0xFFF⟩ ∧
    faulting (at200 0x0FFF) ⟨.decodeError, 0x0FFF, 0x200⟩ ∧
    faulting ((at200 0x2300).withStack (List.replicate 16 0)) ⟨.stackOverflow, 0x200, 0x200⟩ ∧
    faulting (at200 0x00EE) ⟨.stackUnderflow, 0x200, 0x200⟩ ∧
    faulting ((at200 0xF165).withI 0xFFF) ⟨.memOutOfBounds, 0x1000, 0x200⟩ ∧
    faulting ((at200 0xE09E).setV 0 0x10) ⟨.keyOutOfBounds, 0x10, 0x200⟩ :=
  ⟨faulting_of (by decide) (by decide), faulting_of (by decide) (by decide), faulting_of (by decide) (by decide),
   faulting_of (by decide) (by decide), faulting_of (by decide) (by decide), faulting_of (by decide) (by decide)⟩

/-- A tick that runs `ins` from a state without a fault and raises none. -/
def running (s : State) (ins : Instr) : Prop :=
  s.fault = none ∧ s.fetchDecode = .insn ins ∧ ∃ t, step s = .next t ∧ t.fault = none

theorem running_of {s : State} {ins : Instr} (hn : s.fault = none) (hf : s.fetchDecode = .insn ins)
    (h : holds (step s) (fun t => t.fault.isNone) = true) : running s ins :=
  match exists_of_holds h with
  | ⟨t, h1, h2⟩ => ⟨hn, hf, t, h1, Option.isNone_iff_eq_none.mp h2⟩

/-- A waiting Fx0A. -/
theorem witness_TimerStepFollowsTheInstruction :
    ∃ s u : State, s.fault = none ∧ s.fetchDecode = .insn (.ldVxK 0) ∧ exec (.ldVxK 0) (s.withDirty false) = .next u ∧
      u.fault = none := ⟨at200 0xF00A, _, by decide, by decide, rfl, by decide⟩

/-- Fx15, Fx18, and an instruction that is neither (a waiting Fx0A). -/
theorem witness_TimersStepEveryTick :
    running (at200 0xF015) (.ldDtVx 0) ∧ running (at200 0xF018) (.ldStVx 0) ∧ running (at200 0xF00A) (.ldVxK 0) :=
  ⟨running_of (by decide) (by decide) (by decide), running_of (by decide) (by decide) (by decide),
   running_of (by decide) (by decide) (by decide)⟩

/-- 00E0; Dxyn with a set bit and without one; a jump. -/
theorem witness_DirtyAtTheEndOfATick :
    running (at200 0x00E0) .cls ∧
    (running ((at200 0xD001).withI 0x200) (.drw 0 0 1) ∧ ((at200 0xD001).mem.read 0x200 ≠ 0)) ∧
    running ((at200 0xD001).withI 0x300) (.drw 0 0 1) ∧ running (at200 0x1200) (.jp 0x200) :=
  ⟨running_of (by decide) (by decide) (by decide), ⟨running_of (by decide) (by decide) (by decide), by decide⟩,
   running_of (by decide) (by decide) (by decide), running_of (by decide) (by decide) (by decide)⟩

/-- A legal state: PC as far as a jump with offset reaches, 16 entries of the greatest value, no fault. -/
theorem legal_edge : ((State.reset.withPc 0x10FE).withStack (List.replicate 16 0x1000)).Inv :=
  ⟨rfl, by simp [State.sp], fun e h => by simp [List.eq_of_mem_replicate h], by simp,
    fun r h => nomatch (show none = some r from h)⟩

theorem witness_StepKeepsLegalStates :
    (∃ s t, State.Inv s ∧ step s = .next t) ∧
    (∃ t, step ((State.reset.withPc 0x10FE).withStack (List.replicate 16 0x1000)) = .next t) :=
  ⟨⟨_, _, legal_edge, rfl⟩, ⟨_, rfl⟩⟩

theorem witness_ReachableStatesAreLegal : Reachable ((State.reset.load [0x12, 0x00]).setKey 3 true) :=
  .setKey _ _ _ (.boot _)

/-- Index 3583, the last that is loaded, of an input one byte longer; the address below 0x200; the top of memory. -/
theorem witness_LoadFillsFrom0x200 :
    State.reset.mem.wf = true ∧ 3583 < (List.replicate 3585 (1 : Byte)).length ∧
    0x200 + min (List.replicate 3585 (1 : Byte)).length 3584 ≤ 0x1000 ∧ 0x200 + min ([] : List Byte).length 3584 ≤ 0x200 := by
  refine ⟨by decide, ?_, ?_, by decide⟩ <;> rw [List.length_replicate] <;> decide

theorem witness_KeysAreTheHosts : 15 ≠ (3 : Fin 16).val ∧ ∃ t, step (at200 0x1200) = .next t := ⟨by decide, _, rfl⟩

theorem witness_CanonicalMemoriesAreExtensional :
    ∃ m m' : Memory, m ≠ [] ∧ m.wf = true ∧ m'.wf = true ∧ ∀ a, a < 4096 → m.read a = m'.read a :=
  ⟨Memory.write [] 0xFFF 1, Memory.write (Memory.write [] 0xFFF 2) 0xFFF 1, by decide, by decide, by decide, fun a _ => by
    have : Memory.write [] 0xFFF 1 = Memory.write (Memory.write [] 0xFFF 2) 0xFFF 1 := by decide
    rw [this]⟩

/-- The last two bytes of memory. -/
theorem witness_StoredBytesAreFetched :
    ∃ s t : State, s.mem.wf = true ∧ s.i.toNat + (1 : Reg).toNat < 4096 ∧ (1 : Reg).toNat = (0 : Reg).toNat + 1 ∧
      (1 : Reg).toNat ≤ (1 : Reg).toNat ∧ exec (.storeRegs 1) s = .next t :=
  ⟨State.reset.withI 0xFFE, _, by decide, by decide, by decide, by decide, rfl⟩

theorem witness_ControlTransferFrame : ∃ s t, family (.call 0x300) = .control ∧ exec (.call 0x300) s = .next t ∧
    ¬mayWrite (.call 0x300) s .i := ⟨State.reset, _, rfl, rfl, by simp [mayWrite]⟩

theorem witness_RegisterAluFrame : ∃ s t, family (.addReg 1 2) = .alu ∧ exec (.addReg 1 2) s = .next t ∧
    ¬mayWrite (.addReg 1 2) s (.v 2) := ⟨State.reset, _, rfl, rfl, by simp [mayWrite]⟩

theorem witness_IndexFrame : ∃ s t, family (.addI 1) = .index ∧ exec (.addI 1) s = .next t ∧
    ¬mayWrite (.addI 1) s (.v 0xF) := ⟨State.reset, _, rfl, rfl, by simp [mayWrite]⟩

/-- The byte after the block that Fx55 stores. -/
theorem witness_MemoryFrame : ∃ s t, family (.storeRegs 2) = .memory ∧ exec (.storeRegs 2) s = .next t ∧
    ¬mayWrite (.storeRegs 2) s (.byte 0x303) := by
  refine ⟨State.reset.withI 0x300, _, rfl, rfl, ?_⟩
  simp only [mayWrite, reduceCtorEq, false_or, Part.byte.injEq, not_exists, not_and]
  intro k hk
  have h2 : (2 : Reg).toNat = 2 := by decide
  have h3 : (0x300 : Word).toNat = 0x300 := by decide
  simp only [State.effAddr, State.withI_i, h2, h3] at hk ⊢
  omega

theorem witness_DisplayFrame : ∃ s t, family (.drw 1 2 3) = .display ∧ exec (.drw 1 2 3) s = .next t ∧
    ¬mayWrite (.drw 1 2 3) s (.byte 0x300) := ⟨State.reset, _, rfl, rfl, by simp [mayWrite]⟩

theorem witness_TimersAndKeysFrame : ∃ s t, family (.ldDtVx 1) = .timersKeys ∧ exec (.ldDtVx 1) s = .next t ∧
    ¬mayWrite (.ldDtVx 1) s .st := ⟨State.reset, _, rfl, rfl, by simp [mayWrite]⟩

theorem witness_CallPushesReturnAddress : (State.reset.withStack (List.replicate 15 0)).sp < 16 := by decide

theorem witness_StackFaultsNeverWrap : (State.reset.withStack (List.replicate 16 0)).sp = 16 ∧ State.reset.sp = 0 := by
  decide

theorem witness_ReturnPopsTheStack :
    (State.reset.withStack [0x123, 0x456]).stack = [0x123] ++ [0x456] ∧ State.reset.sp = 0 := by decide

theorem witness_ReturnResumesAfterCall : ∃ s t t' : State, s.sp < 16 ∧ exec (.call 0x300) s = .next t ∧ t'.stack = t.stack :=
  ⟨State.reset.withStack (List.replicate 15 0), _, _, by decide, rfl, rfl⟩

theorem witness_ConditionalSkips : (1 : Nibble) ≠ 0 ∧ (0xF : Nibble) ≠ 0 := by decide

/-- 3000 at 0x200 before an illegal FFFF; a memory with 0000 there instead. -/
theorem witness_SkippedOpcodeIsNotDecoded :
    ∃ (s t : State) (m : Memory), s.fault = none ∧ s.fetchDecode = .insn (.seImm 0 0) ∧ isSkip (.seImm 0 0) = true ∧
      step s = .next t ∧ t.pc = s.pc + 4 ∧ m ≠ s.mem ∧
      ∀ a, a ≠ s.pc.toNat + 2 → a ≠ s.pc.toNat + 3 → m.read a = s.mem.read a := by
  obtain ⟨t, ht, hp⟩ := exists_of_holds (r := step (State.reset.load [0x30, 0x00, 0xFF, 0xFF]))
    (p := fun t => decide (t.pc = 0x204)) (by decide)
  refine ⟨State.reset.load [0x30, 0x00, 0xFF, 0xFF], t, (State.reset.load [0x30, 0x00]).mem, by decide, by decide, rfl, ht,
    ?_, by decide, ?_⟩
  · rw [of_decide_eq_true hp]
    decide
  · intro a h2 h3
    have h2' : a ≠ 0x202 := h2
    have h3' : a ≠ 0x203 := h3
    have hm : (State.reset.load [0x30, 0x00, 0xFF, 0xFF]).mem =
        ((State.reset.load [0x30, 0x00]).mem.write 0x202 0xFF).write 0x203 0xFF := by decide
    rw [hm, Memory.read_write_other _ _ h3', Memory.read_write_other _ _ h2']

/-- x ≠ F, up to the last such x. -/
theorem witness_PlainRegisterWrites : (0 : Reg) ≠ 0xF ∧ (0xE : Reg) ≠ 0xF := by decide
theorem witness_BitwiseOperations : (0 : Reg) ≠ 0xF ∧ (0xE : Reg) ≠ 0xF := by decide
theorem witness_AddWithCarry : (0 : Reg) ≠ 0xF ∧ (0xE : Reg) ≠ 0xF := by decide
theorem witness_SubtractWithBorrow : (0 : Reg) ≠ 0xF ∧ (0xE : Reg) ≠ 0xF := by decide
theorem witness_ReverseSubtractWithBorrow : (0 : Reg) ≠ 0xF ∧ (0xE : Reg) ≠ 0xF := by decide
theorem witness_ShiftsInPlace : (0 : Reg) ≠ 0xF ∧ (0xE : Reg) ≠ 0xF := by decide

theorem witness_RandomAndDrawsOneByte :
    (0xE : Reg) ≠ 0xF ∧ (∀ x nn, Instr.jp 0x200 ≠ .rnd x nn) ∧ ∃ t, exec (.jp 0x200) State.reset = .next t :=
  ⟨by decide, fun _ _ => by simp, _, rfl⟩

/-- A flag writer with x = F, an instruction with x = E, one with no destination register. -/
theorem witness_FlagWritersOfVF :
    State.reset.fault = none ∧ (∃ t, exec (.addReg 0xF 1) State.reset = .next t ∧ t.fault = none) ∧
    ((0xE : Reg) ≠ 0xF ∧ ∃ t, exec (.loadRegs 0xE) (State.reset.withI 0x300) = .next t ∧ t.fault = none) ∧
    ∃ t, exec (.jp 0x200) State.reset = .next t ∧ t.fault = none :=
  ⟨rfl, ⟨_, rfl, rfl⟩, ⟨by decide, _, rfl, rfl⟩, ⟨_, rfl, rfl⟩⟩

/-- V[x] = 15, the last value below 16; and one of the two policies holds. -/
theorem witness_GlyphAddress : ((withRegs [(0, 0x0F)]).getV 0).toNat < 16 ∧
    (Config.glyphAddrPolicy = .unmasked ∨ Config.glyphAddrPolicy = .lowNibble) := by
  refine ⟨by decide, ?_⟩
  cases Config.glyphAddrPolicy <;> simp

/-- I + 2 = 0xFFF. -/
theorem witness_BcdStore : (State.reset.withI 0xFFD).mem.wf = true ∧ (State.reset.withI 0xFFD).i.toNat + 2 < 4096 := by decide

/-- I + x = 0xFFF, x = F. -/
theorem witness_RegisterBlockStore : (State.reset.withI 0xFF0).mem.wf = true ∧
    (State.reset.withI 0xFF0).i.toNat + (0xF : Reg).toNat < 4096 ∧ (0xF : Reg).toNat ≤ (0xF : Reg).toNat := by decide

/-- I + x = 0xFFF; the register x and the one above it. -/
theorem witness_RegisterBlockLoad : (State.reset.withI 0xFFD).i.toNat + (2 : Reg).toNat < 4096 ∧
    (2 : Reg).toNat ≤ (2 : Reg).toNat ∧ (2 : Reg).toNat < (3 : Reg).toNat := by decide

theorem witness_BlockLoadAfterBlockStore : ∃ s t t' : State, s.mem.wf = true ∧ s.i.toNat + (0xF : Reg).toNat < 4096 ∧
    exec (.storeRegs 0xF) s = .next t ∧ t'.mem = t.mem ∧ t'.i = t.i ∧ (0xF : Reg).toNat ≤ (0xF : Reg).toNat :=
  ⟨State.reset.withI 0xFF0, _, _, by decide, by decide, rfl, rfl, rfl, by decide⟩

/-- The last byte of the block is the first one outside; and I itself outside. -/
theorem witness_OutOfBoundsAccessFaults :
    (0 < accessCount (.storeRegs 0xF) ∧ 4096 ≤ (State.reset.withI 0xFF1).i.toNat + accessCount (.storeRegs 0xF) - 1) ∧
    (0 < accessCount (.drw 0 0 1) ∧ 4096 ≤ (State.reset.withI 0xFFFF).i.toNat + accessCount (.drw 0 0 1) - 1) := by decide

/-- No row; rows up to the last byte; a pixel that the sprite lands on, on and off; one that it does not land on. -/
theorem witness_DrawXorsTheSprite :
    ((0 : Nibble) = 0) ∧ ((State.reset.withI 0xFFD).i.toNat + (3 : Nibble).toNat ≤ 4096) ∧
    (dataAt State.reset 0x300 [0x80]).spriteHits 0 1 1 0 0 ∧
    (dataAt State.reset 0x300 [0x80]).display.get 0 0 = false ∧
    ((dataAt State.reset 0x300 [0x80]).withDisplay (State.reset.display.put 0 0 true)).spriteHits 0 1 1 0 0 ∧
    ((dataAt State.reset 0x300 [0x80]).withDisplay (State.reset.display.put 0 0 true)).display.get 0 0 = true ∧
    ¬(State.reset.withI 0xFFD).spriteHits 0 1 0 0 0 := by
  refine ⟨by decide, by decide, ⟨0, 0, by decide⟩, by decide, ⟨0, 0, by decide⟩, by decide, ?_⟩
  rintro ⟨j, b, hj, -⟩
  exact absurd hj (by simp)

/-- One pixel, drawn on a display that is off: the conditions of the statement, and those of its first and third clause. -/
theorem witness_DrawTwiceRestoresTheDisplay :
    ∃ s t t' : State, s.i.toNat + (1 : Nibble).toNat ≤ 4096 ∧ exec (.drw 0 1 1) s = .next t ∧ t'.display = t.display ∧
      t'.i = s.i ∧ t'.getV 0 = s.getV 0 ∧ t'.getV 1 = s.getV 1 ∧
      (∀ j, j < (1 : Nibble).toNat → t'.mem.read (s.effAddr j) = s.mem.read (s.effAddr j)) ∧
      s.spriteHits 0 1 1 0 0 ∧ (∀ r c, s.display.get r c = false) := by
  obtain ⟨t, ht, hp⟩ := exists_of_holds (r := exec (.drw 0 1 1) (dataAt State.reset 0x300 [0x80]))
    (p := fun t => decide (t.i = 0x300 ∧ t.getV 0 = 0 ∧ t.getV 1 = 0 ∧ t.mem.read 0x300 = 0x80)) (by decide)
  obtain ⟨h1, h2, h3, h4⟩ := of_decide_eq_true hp
  refine ⟨dataAt State.reset 0x300 [0x80], t, t, by decide, ht, rfl, h1, by rw [h2]; decide, by rw [h3]; decide, ?_,
    ⟨0, 0, by decide⟩, Display.get_clear⟩
  intro j hj
  have h0 : j = 0 := by
    have h1' : (1 : Nibble).toNat = 1 := by decide
    omega
  rw [h0, show (dataAt State.reset 0x300 [0x80]).effAddr 0 = 0x300 by decide, h4]
  decide

/-- The second clause's further condition with a pixel that is hit: the sprite is one pixel, and that pixel is on before the
first draw. -/
theorem witness_DrawTwice_all_on :
    ∃ s t t' : State, s.i.toNat + (1 : Nibble).toNat ≤ 4096 ∧ exec (.drw 0 1 1) s = .next t ∧ t'.display = t.display ∧
      t'.i = s.i ∧ t'.getV 0 = s.getV 0 ∧ t'.getV 1 = s.getV 1 ∧
      (∀ j, j < (1 : Nibble).toNat → t'.mem.read (s.effAddr j) = s.mem.read (s.effAddr j)) ∧
      s.spriteHits 0 1 1 0 0 ∧ (∀ r c, s.spriteHits 0 1 1 r c → s.display.get r c = true) := by
  obtain ⟨s, hs⟩ : ∃ s, s = (dataAt State.reset 0x300 [0x80]).withDisplay (State.reset.display.put 0 0 true) := ⟨_, rfl⟩
  obtain ⟨t, ht, hp⟩ := exists_of_holds (r := exec (.drw 0 1 1) s)
    (p := fun t => decide (t.i = 0x300 ∧ t.getV 0 = 0 ∧ t.getV 1 = 0 ∧ t.mem.read 0x300 = 0x80)) (by rw [hs]; decide)
  obtain ⟨h1, h2, h3, h4⟩ := of_decide_eq_true hp
  have hn : (1 : Nibble).toNat = 1 := by decide
  have hi : s.i = 0x300 ∧ s.getV 0 = 0 ∧ s.getV 1 = 0 ∧ s.effAddr 0 = 0x300 ∧ s.mem.read 0x300 = 0x80 ∧
      s.display.get 0 0 = true := by rw [hs]; decide
  obtain ⟨i1, i2, i3, i4, i5, i6⟩ := hi
  refine ⟨s, t, t, by rw [i1]; decide, ht, rfl, by rw [h1, i1], by rw [h2, i2], by rw [h3, i3], ?_,
    by rw [hs]; exact ⟨0, 0, by decide⟩, ?_⟩
  · intro j hj
    rw [show j = 0 by omega, i4, h4, i5]
  · rintro r c ⟨j, b, hj, hb, hbit, hr, hc⟩
    rw [show j = 0 by omega] at hbit hr
    rw [i4, i5] at hbit
    have hb0 : b = 0 := by
      by_contra hne
      exact absurd hbit (by interval_cases b <;> contradiction)
    rw [i2, hb0] at hc
    rw [i3] at hr
    rw [show r = 0 from Fin.ext hr, show c = 0 from Fin.ext hc, i6]

/-- V[x] = 15 and V[x] = 16. -/
theorem witness_KeySkips : ((withRegs [(0, 0x0F)]).getV 0).toNat < 16 ∧ 16 ≤ ((withRegs [(0, 0x10)]).getV 0).toNat := by decide

/-- The last key alone; no key. -/
theorem witness_KeyWait : (0xE : Reg) ≠ 0xF ∧
    ((State.reset.setKey 15 true).key 15 = true ∧ ∀ j, j < 15 → (State.reset.setKey 15 true).key j = false) ∧
    ∀ j, j < 16 → State.reset.key j = false := by decide

theorem witness_SoundTimerIsNotReadable : ∃ t, exec (.ldStVx 3) State.reset = .next t := ⟨_, rfl⟩

theorem witness_KeysAreReadByThreeInstructions :
    (∀ x, Instr.ldVxDt 3 ≠ .skp x ∧ Instr.ldVxDt 3 ≠ .sknp x ∧ Instr.ldVxDt 3 ≠ .ldVxK x) ∧
    ∃ t, exec (.ldVxDt 3) State.reset = .next t := ⟨fun _ => by simp, _, rfl⟩

end Sys2Proof.Tests
end

section
/-! The two ends of the call stack (`10_state.md` R31): a call that finds it full and a return that finds it empty take
their fault, and a step of a block that holds a fault keeps the whole state (R134). -/

namespace Sys2Proof.Machine

/-- The sticky fault (R134). -/
theorem step_of_fault {s : State} {r : FaultRecord} (h : s.fault = some r) : step s = .next s := by
  simp only [step, State.tick, h]

theorem exec_call_of_full {s : State} (nnn : Addr12) (h : 16 ≤ s.sp) :
    exec (.call nnn) s = .next (s.takeFault .stackOverflow s.pc.toNat) := by
  have hpush : s.push? (s.pc + 2) = none := (s.push?_eq_none _).mpr h
  simp only [exec, execCall, hpush]

theorem exec_ret_of_empty {s : State} (h : s.sp = 0) :
    exec .ret s = .next (s.takeFault .stackUnderflow s.pc.toNat) := by
  have hpop : s.pop? = none := s.pop?_eq_none.mpr h
  simp only [exec, execRet, hpop]

/-- Settles O32: at either end of the stack the instruction answers `takeFault`, which keeps the stack and sets the fault
that every later step keeps. -/
theorem stackFaultsNeverWrap : Obligations.StackFaultsNeverWrap := by
  intro s nnn
  constructor
  · intro hfull
    exact ⟨_, _, exec_call_of_full nnn hfull.ge, s.takeFault_fault .., rfl, s.takeFault_stack ..,
      step_of_fault (s.takeFault_fault ..)⟩
  · intro hempty
    exact ⟨_, _, exec_ret_of_empty hempty, s.takeFault_fault .., rfl, s.takeFault_stack ..,
      step_of_fault (s.takeFault_fault ..)⟩

end Sys2Proof.Machine
end

section
/-! The host's load of a program (`20_memory.md` R70): a run of writes from 0x200 on that never leaves the 4096 bytes, since
the input is cut to the 3584 bytes between 0x200 and the end of memory. -/

namespace Sys2Proof.Machine

@[simp] theorem State.load_mem (s : State) (bytes : List Byte) :
    (s.load bytes).mem = s.mem.writeList 0x200 (bytes.take 3584) := rfl

/-- Load touches nothing but memory. -/
theorem State.load_eq_withMem (s : State) (bytes : List Byte) : s.load bytes = s.withMem (s.load bytes).mem := rfl

theorem loaded_bytes_fit (bytes : List Byte) : 0x200 + (bytes.take 3584).length ≤ 4096 := by
  have := bytes.length_take_le 3584
  omega

theorem State.read_load_inside {s : State} (hm : s.mem.wf = true) {bytes : List Byte} {j : Nat}
    (hj : j < bytes.length) (hcut : j < 3584) : (s.load bytes).mem.read (0x200 + j) = bytes[j] := by
  have hk : j < (bytes.take 3584).length := by rw [List.length_take]; omega
  rw [State.load_mem, Memory.read_writeList_inside hm _ (loaded_bytes_fit bytes) hk, List.getElem_take]

theorem State.read_load_outside (s : State) (bytes : List Byte) {a : Nat}
    (h : a < 0x200 ∨ 0x200 + min bytes.length 3584 ≤ a) : (s.load bytes).mem.read a = s.mem.read a := by
  rw [State.load_mem, Memory.read_writeList_outside]
  rwa [List.length_take, Nat.min_comm]

theorem State.wf_load {s : State} (hm : s.mem.wf = true) (bytes : List Byte) : (s.load bytes).mem.wf = true :=
  Memory.wf_writeList hm _ (loaded_bytes_fit bytes)

/-- Settles O20: the bytes written are the input's first 3584, which fit between 0x200 and the end of memory, so the laws of
a run of writes give what is read inside and outside it and the canonical form. -/
theorem loadFillsFrom0x200 : Obligations.LoadFillsFrom0x200 := by
  intro s bytes hm
  exact ⟨fun _ hj hcut => State.read_load_inside hm hj hcut, fun _ ha => s.read_load_outside bytes ha,
    s.load_eq_withMem bytes, State.wf_load hm bytes⟩

end Sys2Proof.Machine
end

section
/-! The decoder as the table says it (`30_encoding.md` R97). The scan of the table stops at the first row that the opcode
selects; no opcode selects two rows, so that row is any row it selects, and the order of the rows is of no account. -/

namespace Sys2Proof

/-- The two rows ask for different values of some bit that both masks look at. -/
def Row.Conflicts (r q : Row) : Prop := r.pat &&& q.mask ≠ q.pat &&& r.mask

theorem Row.selects_iff {r : Row} {op : Word} : r.selects op = true ↔ op &&& r.mask = r.pat := beq_iff_eq

theorem Row.conflicts_symm : Std.Symm Row.Conflicts := ⟨fun _ _ h => Ne.symm h⟩

/-- Under both masks, an opcode selecting both rows would give the matches of both. -/
theorem Row.not_conflicts_of_selects {r q : Row} {op : Word} (hr : r.selects op = true) (hq : q.selects op = true) :
    ¬ r.Conflicts q := by
  rw [Row.selects_iff] at hr hq
  rw [Row.Conflicts, not_not, ← hr, ← hq, BitVec.and_assoc, BitVec.and_assoc, BitVec.and_comm r.mask]

theorem opcodeTable_pairwise_conflicts : opcodeTable.Pairwise Row.Conflicts := by
  unfold Row.Conflicts
  decide

/-- No opcode selects two rows (R94). -/
theorem row_unique {r q : Row} {op : Word} (hr : r ∈ opcodeTable) (hq : q ∈ opcodeTable)
    (hrs : r.selects op = true) (hqs : q.selects op = true) : r = q := by
  by_contra hne
  have := Row.conflicts_symm
  have hconf : r.Conflicts q := opcodeTable_pairwise_conflicts.forall hr hq hne
  exact Row.not_conflicts_of_selects hrs hqs hconf

theorem decodeOp_of_find {row : Row} {op : Word} (h : opcodeTable.find? (·.selects op) = some row) :
    decodeOp op = .insn (row.build op) := by
  rw [decodeOp, h]

theorem decodeOp_of_selects {row : Row} {op : Word} (hrow : row ∈ opcodeTable) (hsel : row.selects op = true) :
    decodeOp op = .insn (row.build op) := by
  have hsome : (opcodeTable.find? (·.selects op)).isSome := List.find?_isSome.mpr ⟨row, hrow, hsel⟩
  obtain ⟨first, hfirst⟩ := Option.isSome_iff_exists.mp hsome
  have hfsel : first.selects op = true := List.find?_some (p := (Row.selects · op)) hfirst
  have heq : first = row := row_unique (List.mem_of_find?_eq_some hfirst) hrow hfsel hsel
  rw [decodeOp_of_find hfirst, heq]

theorem decodeOp_of_no_row {op : Word} (h : ∀ row ∈ opcodeTable, ¬ row.selects op = true) :
    decodeOp op = .illegal op := by
  rw [decodeOp, List.find?_eq_none.mpr h]

end Sys2Proof

namespace Sys2Proof.Machine

/-- Settles O3: the rows are pairwise in conflict, so the first row that the scan finds is the only one that the opcode
selects. -/
theorem decoderFollowsOpcodeTable : Obligations.DecoderFollowsOpcodeTable := by
  refine ⟨rfl, fun op => ⟨fun row hrow hsel => ?_, fun hnone => ?_⟩⟩
  · exact decodeOp_of_selects hrow (Row.selects_iff.mpr hsel)
  · exact decodeOp_of_no_row fun row hrow hsel => hnone row hrow (Row.selects_iff.mp hsel)

end Sys2Proof.Machine
end

section
/-! The stages of one tick (`40_cycle.md` R122, R123, R130): what the fetch reads and refuses, what the table makes of the
opcode, and the timer step after an instruction that raised no fault. -/

namespace Sys2Proof.Machine

/-- A fetch whose second byte would lie outside memory (R122). -/
theorem step_of_fetch_outside {s : State} (hn : s.fault = none) (hpc : 4096 ≤ s.pc.toNat + 1) :
    step s = .next (s.withFault (some ⟨.fetchOutOfBounds, s.pc.toNat, s.pc⟩)) :=
  step_of_raised hn (State.fetchDecode_of_ge hpc)

/-- Settles O7: inside memory the fetch gives the two bytes at PC and PC + 1, whose concatenation is big-endian; outside it
the tick only sets FAULT, so PC stays. -/
theorem fetchIsBigEndianAndBounded : Obligations.FetchIsBigEndianAndBounded := by
  intro s
  constructor
  · intro hpc
    exact ⟨_, _, State.fetch?_of_lt hpc, toNat_opcodeOf _ _⟩
  · intro hn hpc
    exact ⟨_, _, step_of_fetch_outside hn hpc, s.withFault_fault _, rfl, rfl, s.withFault_pc _⟩

/-- A fetched opcode that selects no row (R123). -/
theorem step_of_no_row {s : State} {hi lo : Byte} (hn : s.fault = none) (hf : s.fetch? = some [hi, lo])
    (h : ∀ row ∈ opcodeTable, ¬ row.selects (opcodeOf hi lo) = true) :
    step s = .next (s.withFault (some ⟨.decodeError, (opcodeOf hi lo).toNat, s.pc⟩)) :=
  step_of_raised hn (State.fetchDecode_of_illegal hf (decodeOp_of_no_row h))

/-- Settles O8: the decoder answers the selected row's instruction, whichever row that is; where there is none, the tick is
the state of before it with the record set. -/
theorem decodeErrorCarriesOpcode : Obligations.DecodeErrorCarriesOpcode := by
  intro s hi lo hf
  constructor
  · intro row hrow hsel
    exact State.fetchDecode_of_insn hf (decodeOp_of_selects hrow (Row.selects_iff.mpr hsel))
  · intro hn hnone
    exact ⟨_, step_of_no_row hn hf fun row hrow hsel => hnone row hrow (Row.selects_iff.mp hsel), rfl, rfl⟩

/-- A tick that raises no fault ends in the timer step on the state that its instruction left (R120, R130). -/
theorem step_of_insn_without_fault {s u : State} {ins : Instr} (hn : s.fault = none) (hf : s.fetchDecode = .insn ins)
    (he : exec ins s.beginTick = .next u) (hu : u.fault = none) : step s = .next u.timerStep := by
  rw [step_of_insn hn hf he, State.endTick_of_none hu]

/-- Settles O12: the tick is the timer step of the instruction's state, and each timer there is `timerDown` of its value. -/
theorem timerStepFollowsTheInstruction : Obligations.TimerStepFollowsTheInstruction := by
  intro s u ins hn hf he hu
  exact ⟨_, step_of_insn_without_fault hn hf he hu, timerDown_toNat u.dt, timerDown_toNat u.st⟩

end Sys2Proof.Machine
end

section
/-! Control transfer (`41_control_flow.md` R142, R143, R146 to R149): the state that each form answers, and what the decoder
makes of its pattern. The encoding of an instruction selects the row that builds it; of the `xyn` words with n0 = 5 or 9,
those with N ≠ 0 are in conflict with every row of the table, which is why they are illegal. -/

namespace Sys2Proof

/-- Decoding undoes encoding; `op` is the encoding as the statement at hand writes it. -/
theorem decodeOp_of_rowSelected {ins : Instr} {op : Word} (h : Laws.RowSelected.Statement ins) (hop : encode ins = op) :
    decodeOp op = .insn ins := by
  subst hop
  obtain ⟨row, hrow, hsel, hbuild⟩ := h
  rw [decodeOp_of_selects hrow hsel, hbuild]

/-- A row that every row of the table conflicts with selects only illegal opcodes. -/
theorem decodeOp_of_conflicting_row {r : Row} {op : Word} (hr : r.selects op = true)
    (h : ∀ row ∈ opcodeTable, row.Conflicts r) : decodeOp op = .illegal op :=
  decodeOp_of_no_row fun row hrow hsel => Row.not_conflicts_of_selects hsel hr (h row hrow)

/-- The patterns 5xyN and 9xyN with N ≠ 0, each written as a row, conflict with all 34 rows (R94, R98). -/
theorem opcodeTable_conflicts_xyN (n : Nibble) (hn : n ≠ 0) :
    (∀ row ∈ opcodeTable, row.Conflicts (rowXY (wordXYN 0x5 0 0 n) .seReg)) ∧
    ∀ row ∈ opcodeTable, row.Conflicts (rowXY (wordXYN 0x9 0 0 n) .sneReg) := by
  unfold Row.Conflicts
  revert n
  decide

theorem decodeOp_5xyN (x y : Reg) {n : Nibble} (hn : n ≠ 0) :
    decodeOp (wordXYN 0x5 x y n) = .illegal (wordXYN 0x5 x y n) :=
  decodeOp_of_conflicting_row (Laws.rowXY_selects .seReg x y rfl).1 (opcodeTable_conflicts_xyN n hn).1

theorem decodeOp_9xyN (x y : Reg) {n : Nibble} (hn : n ≠ 0) :
    decodeOp (wordXYN 0x9 x y n) = .illegal (wordXYN 0x9 x y n) :=
  decodeOp_of_conflicting_row (Laws.rowXY_selects .sneReg x y rfl).1 (opcodeTable_conflicts_xyN n hn).2

end Sys2Proof

namespace Sys2Proof.Machine

theorem toNat_zext16 {w : Nat} (hw : w ≤ 16) (v : BitVec w) : (zext16 v).toNat = v.toNat :=
  BitVec.toNat_setWidth_of_le hw

theorem exec_jp (nnn : Addr12) (s : State) : exec (.jp nnn) s = .next (s.withPc (zext16 nnn)) := rfl

/-- Settles O30: the jump only sets PC, and 12 bits keep their value in 16. -/
theorem jumpSetsPc : Obligations.JumpSetsPc := by
  intro s nnn
  exact ⟨decodeOp_of_rowSelected (Laws.RowSelected.jp nnn) rfl, _, exec_jp nnn s, toNat_zext16 (by decide) nnn,
    s.withPc_getV _ _, s.withPc_fault _⟩

theorem exec_ret_of_append {s : State} {rest : List Word} {v : Word} (h : s.stack = rest ++ [v]) :
    exec .ret s = .next ((s.withStack rest).withPc v) := by
  have hpop : s.pop? = some (v, s.withStack rest) := (s.pop?_eq_some _ v).mpr ⟨rest, h, rfl⟩
  simp only [exec, execRet, hpop, State.direct_hold]

/-- Settles O33: a stack with a newest entry is popped into PC; an empty one answers `takeFault`, whose record holds the PC
that it keeps. -/
theorem returnPopsTheStack : Obligations.ReturnPopsTheStack := by
  refine ⟨decodeOp_of_rowSelected Laws.RowSelected.ret rfl, fun s => ⟨fun rest v hstack => ?_, fun hempty => ?_⟩⟩
  · exact ⟨_, exec_ret_of_append hstack, rfl, rfl, rfl, rfl⟩
  · exact ⟨_, _, exec_ret_of_empty hempty, s.takeFault_fault .., rfl, rfl, s.takeFault_pc ..⟩

theorem exec_seImm (x : Reg) (nn : Byte) (s : State) :
    exec (.seImm x nn) s = .next (s.direct (skipIf (s.getV x == nn))) := rfl

theorem exec_sneImm (x : Reg) (nn : Byte) (s : State) :
    exec (.sneImm x nn) s = .next (s.direct (skipIf (s.getV x != nn))) := rfl

theorem exec_seReg (x y : Reg) (s : State) :
    exec (.seReg x y) s = .next (s.direct (skipIf (s.getV x == s.getV y))) := rfl

theorem exec_sneReg (x y : Reg) (s : State) :
    exec (.sneReg x y) s = .next (s.direct (skipIf (s.getV x != s.getV y))) := rfl

/-- SKIP is PC + 4 and NEXT is PC + 2 (R128). -/
theorem State.direct_skipIf_pc (s : State) (c : Bool) :
    (s.direct (skipIf c)).pc = if c then s.pc + 4 else s.pc + 2 := by
  cases c <;> rfl

theorem State.direct_skipIf_beq_pc (s : State) (a b : Byte) :
    (s.direct (skipIf (a == b))).pc = if a = b then s.pc + 4 else s.pc + 2 := by
  simp only [State.direct_skipIf_pc, beq_iff_eq]

theorem State.direct_skipIf_bne_pc (s : State) (a b : Byte) :
    (s.direct (skipIf (a != b))).pc = if a = b then s.pc + 2 else s.pc + 4 := by
  simp only [State.direct_skipIf_pc, bne_iff_ne, ne_eq, ite_not]

/-- An instruction that only gives a directive keeps FAULT and VF and moves PC as the directive says. -/
theorem exists_next_of_direct {ins : Instr} {s : State} {d : Directive} {pc : Word}
    (he : exec ins s = .next (s.direct d)) (hpc : (s.direct d).pc = pc) :
    ∃ t, exec ins s = .next t ∧ t.fault = s.fault ∧ t.getV 0xF = s.getV 0xF ∧ t.pc = pc :=
  ⟨_, he, s.direct_fault d, s.direct_getV d 0xF, hpc⟩

/-- Settles O36: each of the four gives the directive of its comparison and nothing else; the words with N ≠ 0 select no
row. -/
theorem conditionalSkips : Obligations.ConditionalSkips := by
  intro s x y nn
  refine ⟨⟨?_, ?_⟩, ⟨?_, ?_⟩, ⟨?_, ?_⟩, ⟨?_, ?_⟩, fun n hn => ⟨decodeOp_5xyN x y hn, decodeOp_9xyN x y hn⟩⟩
  · exact decodeOp_of_rowSelected (Laws.RowSelected.seImm x nn) rfl
  · exact exists_next_of_direct (exec_seImm x nn s) (s.direct_skipIf_beq_pc _ _)
  · exact decodeOp_of_rowSelected (Laws.RowSelected.sneImm x nn) rfl
  · exact exists_next_of_direct (exec_sneImm x nn s) (s.direct_skipIf_bne_pc _ _)
  · exact decodeOp_of_rowSelected (Laws.RowSelected.seReg x y) rfl
  · exact exists_next_of_direct (exec_seReg x y s) (s.direct_skipIf_beq_pc _ _)
  · exact decodeOp_of_rowSelected (Laws.RowSelected.sneReg x y) rfl
  · exact exists_next_of_direct (exec_sneReg x y s) (s.direct_skipIf_bne_pc _ _)

end Sys2Proof.Machine
end

section
/-! Plain register writes (`42_register_alu.md` R160 to R162): an instruction that sets one register to a value and touches no
flag, and the three forms 6xnn, 7xnn and 8xy0 of it. -/

namespace Sys2Proof.Machine

theorem exec_ldImm (x : Reg) (nn : Byte) (s : State) : exec (.ldImm x nn) s = s.aluPlain x nn := rfl

theorem exec_addImm (x : Reg) (nn : Byte) (s : State) : exec (.addImm x nn) s = s.aluPlain x (s.getV x + nn) := rfl

theorem exec_ldReg (x y : Reg) (s : State) : exec (.ldReg x y) s = s.aluPlain x (s.getV y) := rfl

theorem State.aluPlain_eq_next (s : State) (x : Reg) (b : Byte) : s.aluPlain x b = .next ((s.setV x b).direct .next) := rfl

/-- An instruction that answers `aluPlain` sets V[x], keeps VF unless x = F, keeps FAULT, and moves PC to the next
instruction. -/
theorem exists_next_of_aluPlain {ins : Instr} {s : State} {x : Reg} {b : Byte} (he : exec ins s = s.aluPlain x b) :
    ∃ t, exec ins s = .next t ∧ t.getV x = b ∧ (x ≠ 0xF → t.getV 0xF = s.getV 0xF) ∧ t.pc = s.pc + 2 ∧
      t.fault = s.fault := by
  refine ⟨_, he.trans (s.aluPlain_eq_next x b), ?_, fun hx => ?_, ?_, ?_⟩
  · rw [State.direct_getV, State.getV_setV_same]
  · rw [State.direct_getV, State.getV_setV_other s b hx.symm]
  · rw [State.direct_next_pc, State.setV_pc]
  · rw [State.direct_fault, State.setV_fault]

/-- Settles O38: all three forms are plain register writes; the sum of 7xnn is that of bytes, so it wraps at 256. -/
theorem plainRegisterWrites : Obligations.PlainRegisterWrites := by
  intro s x y nn
  refine ⟨⟨?_, ?_⟩, ⟨?_, ?_⟩, ⟨?_, ?_⟩⟩
  · exact decodeOp_of_rowSelected (Laws.RowSelected.ldImm x nn) rfl
  · exact exists_next_of_aluPlain (exec_ldImm x nn s)
  · exact decodeOp_of_rowSelected (Laws.RowSelected.addImm x nn) rfl
  · obtain ⟨t, ht, hx, hkeep⟩ := exists_next_of_aluPlain (exec_addImm x nn s)
    exact ⟨t, ht, by rw [hx, BitVec.toNat_add], hkeep⟩
  · exact decodeOp_of_rowSelected (Laws.RowSelected.ldReg x y) rfl
  · exact exists_next_of_aluPlain (exec_ldReg x y s)

end Sys2Proof.Machine
end

section
/-! Writes of the index register (`43_index_memory.md` R190, R191): an instruction that sets I to a value and goes on, and the
forms Annn and Fx1E of it. -/

namespace Sys2Proof.Machine

theorem exec_ldI (nnn : Addr12) (s : State) : exec (.ldI nnn) s = (s.withI (zext16 nnn)).nextInsn := rfl

theorem exec_addI (x : Reg) (s : State) : exec (.addI x) s = (s.withI (s.i + zext16 (s.getV x))).nextInsn := rfl

/-- An instruction that only sets I keeps VF and FAULT and moves PC to the next instruction; `n` is the value of I as the
statement at hand writes it. -/
theorem exists_next_of_withI {ins : Instr} {s : State} {i : Word} {n : Nat} (he : exec ins s = (s.withI i).nextInsn)
    (hi : i.toNat = n) :
    ∃ t, exec ins s = .next t ∧ t.i.toNat = n ∧ t.getV 0xF = s.getV 0xF ∧ t.pc = s.pc + 2 ∧ t.fault = s.fault := by
  refine ⟨(s.withI i).direct .next, he, ?_, ?_, ?_, ?_⟩
  · rw [State.direct_i, State.withI_i, hi]
  · rw [State.direct_getV, State.withI_getV]
  · rw [State.direct_next_pc, State.withI_pc]
  · rw [State.direct_fault, State.withI_fault]

/-- Settles O46: both forms only set I, to a zero-extended address or to a sum of 16-bit words, which wraps at 65536. -/
theorem indexRegisterWrites : Obligations.IndexRegisterWrites := by
  intro s x nnn
  refine ⟨⟨?_, ?_⟩, ⟨?_, ?_⟩⟩
  · exact decodeOp_of_rowSelected (Laws.RowSelected.ldI nnn) rfl
  · exact exists_next_of_withI (exec_ldI nnn s) (toNat_zext16 (by decide) nnn)
  · exact decodeOp_of_rowSelected (Laws.RowSelected.addI x) rfl
  · refine exists_next_of_withI (exec_addI x s) ?_
    rw [BitVec.toNat_add, toNat_zext16 (by decide)]

end Sys2Proof.Machine
end

section
/-! The wait for a key (`45_timers_keys.md` R236): what Fx0A answers where the scan of the keys finds one, and where it finds
none. -/

namespace Sys2Proof.Machine

/-- A found key is written as a plain register write. -/
theorem exec_ldVxK_of_firstKey {s : State} {k : Nat} (x : Reg) (h : s.firstKey 0 16 = some k) :
    exec (.ldVxK x) s = s.aluPlain x (BitVec.ofNat 8 k) := by
  simp only [exec, execLdVxK, h, State.aluPlain]

/-- HOLD is the whole state kept (R128). -/
theorem exec_ldVxK_of_no_key {s : State} (x : Reg) (h : s.firstKey 0 16 = none) : exec (.ldVxK x) s = .next s := by
  simp only [exec, execLdVxK, h, State.direct_hold]

/-- Settles O58: the lowest pressed key is the one that the scan finds, and its number fits a byte; where no key is pressed
the scan finds none and the state is kept. -/
theorem keyWait : Obligations.KeyWait := by
  intro s x
  refine ⟨decodeOp_of_rowSelected (Laws.RowSelected.ldVxK x) rfl, fun k hk hkey hlow => ?_, fun hnone => ?_⟩
  · have hfirst : s.firstKey 0 16 = some k :=
      State.firstKey_eq_some.mpr ⟨k.zero_le, by omega, hkey, fun j _ hj => hlow j hj⟩
    have hbyte : (BitVec.ofNat 8 k).toNat = k := by
      rw [BitVec.toNat_ofNat, Nat.mod_eq_of_lt (by omega)]
    obtain ⟨t, ht, hx, hkeep⟩ := exists_next_of_aluPlain (exec_ldVxK_of_firstKey x hfirst)
    exact ⟨t, ht, by rw [hx, hbyte], hkeep⟩
  · have hfirst : s.firstKey 0 16 = none := State.firstKey_eq_none.mpr fun j _ hj => hnone j (by omega)
    exact ⟨s, exec_ldVxK_of_no_key x hfirst, rfl, rfl, rfl, rfl⟩

end Sys2Proof.Machine
end

section
/-! The state after reset (`70_reset_and_hazards.md` R280): memory lists no cell, so every address reads as the glyph set or
as 0; the registers, pixels and keys are vectors that hold one value everywhere. -/

namespace Sys2Proof.Machine

theorem Memory.unlisted_of_lt {a : Nat} (h : a < 80) : Memory.unlisted a = Config.glyphTable[a] := dif_pos h

theorem Memory.unlisted_of_ge {a : Nat} (h : 80 ≤ a) : Memory.unlisted a = 0 := dif_neg h.not_gt

@[simp] theorem State.reset_mem_read (a : Nat) : State.reset.mem.read a = Memory.unlisted a := Memory.read_nil a

@[simp] theorem State.reset_getV (x : Reg) : State.reset.getV x = 0 := Vector.getElem_replicate x.isLt

theorem State.reset_display : State.reset.display = Display.clear := rfl

/-- No key is pressed, and a number that names no key reads as not pressed. -/
@[simp] theorem State.reset_key (k : Nat) : State.reset.key k = false := by
  unfold State.key
  split
  · next h => exact Vector.getElem_replicate h
  · rfl

/-- Settles O19: memory reads as unlisted, which is the glyph table below 80 and 0 from there on; the display is the cleared
one; the scalar elements hold their reset values by definition. -/
theorem resetState : Obligations.ResetState := by
  refine ⟨fun a h => ?glyphs, fun a h _ => ?zeroed, State.reset_getV, rfl, rfl, rfl, rfl, rfl, fun r c => ?pixels, rfl,
    State.reset_key, rfl⟩
  case glyphs => rw [State.reset_mem_read, Memory.unlisted_of_lt h]
  case zeroed => rw [State.reset_mem_read, Memory.unlisted_of_ge h]
  case pixels => rw [State.reset_display, Display.get_clear]

end Sys2Proof.Machine
end

section
/-! The round trip between instructions and opcodes (`30_encoding.md` R92, R94): every instruction's encoding selects the row
that builds it, and every row's fields give back the opcode that they were taken from. -/

namespace Sys2Proof

/-- The family `RowSelected` for every instruction. -/
theorem rowSelected (ins : Instr) : Laws.RowSelected.Statement ins :=
  match ins with
  | .cls => Laws.RowSelected.cls
  | .ret => Laws.RowSelected.ret
  | .jp nnn => Laws.RowSelected.jp nnn
  | .call nnn => Laws.RowSelected.call nnn
  | .seImm x nn => Laws.RowSelected.seImm x nn
  | .sneImm x nn => Laws.RowSelected.sneImm x nn
  | .seReg x y => Laws.RowSelected.seReg x y
  | .ldImm x nn => Laws.RowSelected.ldImm x nn
  | .addImm x nn => Laws.RowSelected.addImm x nn
  | .ldReg x y => Laws.RowSelected.ldReg x y
  | .orReg x y => Laws.RowSelected.orReg x y
  | .andReg x y => Laws.RowSelected.andReg x y
  | .xorReg x y => Laws.RowSelected.xorReg x y
  | .addReg x y => Laws.RowSelected.addReg x y
  | .subReg x y => Laws.RowSelected.subReg x y
  | .shr x y => Laws.RowSelected.shr x y
  | .subn x y => Laws.RowSelected.subn x y
  | .shl x y => Laws.RowSelected.shl x y
  | .sneReg x y => Laws.RowSelected.sneReg x y
  | .ldI nnn => Laws.RowSelected.ldI nnn
  | .jpV0 nnn => Laws.RowSelected.jpV0 nnn
  | .rnd x nn => Laws.RowSelected.rnd x nn
  | .drw x y n => Laws.RowSelected.drw x y n
  | .skp x => Laws.RowSelected.skp x
  | .sknp x => Laws.RowSelected.sknp x
  | .ldVxDt x => Laws.RowSelected.ldVxDt x
  | .ldVxK x => Laws.RowSelected.ldVxK x
  | .ldDtVx x => Laws.RowSelected.ldDtVx x
  | .ldStVx x => Laws.RowSelected.ldStVx x
  | .addI x => Laws.RowSelected.addI x
  | .ldF x => Laws.RowSelected.ldF x
  | .ldB x => Laws.RowSelected.ldB x
  | .storeRegs x => Laws.RowSelected.storeRegs x
  | .loadRegs x => Laws.RowSelected.loadRegs x

theorem decodeOp_encode (ins : Instr) : decodeOp (encode ins) = .insn ins :=
  decodeOp_of_rowSelected (rowSelected ins) rfl

/-- An opcode that the row selects is the encoding of what the row builds from it. -/
def Row.EncodesBack (r : Row) : Prop := ∀ op, r.selects op = true → encode (r.build op) = op

/-! What the three masks keep of an opcode, as a word of its fields. All of them keep n0, F00F keeps n too and F0FF nn. -/

theorem and_F000 (op : Word) : op &&& 0xF000#16 = wordNNN (op.extractLsb' 12 4) 0 :=
  (congrArg (· &&& _) (word_of_nnn op)).trans (wordNNN_and_F000 ..)

theorem and_F00F (op : Word) : op &&& 0xF00F#16 = wordXYN (op.extractLsb' 12 4) 0 0 (fieldN op) :=
  (congrArg (· &&& _) (word_of_xyn op)).trans (wordXYN_and_F00F ..)

theorem and_F0FF (op : Word) : op &&& 0xF0FF#16 = wordXNN (op.extractLsb' 12 4) 0 (fieldNN op) :=
  (congrArg (· &&& _) (word_of_xnn op)).trans (wordXNN_and_F0FF ..)

/-! The fields that an opcode shares with the match of a row that it selects. -/

theorem n0_eq_of_and_F000 {op : Word} {a : Nibble} (h : op &&& 0xF000#16 = wordNNN a 0) :
    op.extractLsb' 12 4 = a := by
  rw [and_F000] at h
  exact (BitVec.append_left_inj _).mp h

theorem fields_eq_of_and_F00F {op : Word} {a n : Nibble} (h : op &&& 0xF00F#16 = wordXYN a 0 0 n) :
    op.extractLsb' 12 4 = a ∧ fieldN op = n := by
  rw [and_F00F] at h
  have hn : fieldN op = n := by simpa using congrArg fieldN h
  rw [hn] at h
  exact ⟨(BitVec.append_left_inj _).mp ((BitVec.append_left_inj _).mp ((BitVec.append_left_inj _).mp h)), hn⟩

theorem fields_eq_of_and_F0FF {op : Word} {a : Nibble} {nn : Byte} (h : op &&& 0xF0FF#16 = wordXNN a 0 nn) :
    op.extractLsb' 12 4 = a ∧ fieldNN op = nn := by
  rw [and_F0FF] at h
  have hnn : fieldNN op = nn := by simpa using congrArg fieldNN h
  rw [hnn] at h
  exact ⟨(BitVec.append_left_inj _).mp ((BitVec.append_left_inj _).mp h), hnn⟩

/-! The rows of each layout; `henc` says that the encoder uses the row's layout. -/

theorem rowNNN_encodesBack {pat : Word} {f : Addr12 → Instr} {a : Nibble} (hpat : pat = wordNNN a 0)
    (henc : ∀ nnn, encode (f nnn) = wordNNN a nnn) : (rowNNN pat f).EncodesBack := by
  intro op hsel
  obtain rfl := n0_eq_of_and_F000 ((Row.selects_iff.mp hsel).trans hpat)
  exact (henc _).trans (word_of_nnn op).symm

theorem rowXNN_encodesBack {pat : Word} {f : Reg → Byte → Instr} {a : Nibble} (hpat : pat = wordNNN a 0)
    (henc : ∀ x nn, encode (f x nn) = wordXNN a x nn) : (rowXNN pat f).EncodesBack := by
  intro op hsel
  obtain rfl := n0_eq_of_and_F000 ((Row.selects_iff.mp hsel).trans hpat)
  exact (henc _ _).trans (word_of_xnn op).symm

theorem rowXYN_encodesBack {pat : Word} {f : Reg → Reg → Nibble → Instr} {a : Nibble} (hpat : pat = wordNNN a 0)
    (henc : ∀ x y n, encode (f x y n) = wordXYN a x y n) :
    Row.EncodesBack ⟨0xF000, pat, fun op => f (fieldX op) (fieldY op) (fieldN op)⟩ := by
  intro op hsel
  obtain rfl := n0_eq_of_and_F000 ((Row.selects_iff.mp hsel).trans hpat)
  exact (henc _ _ _).trans (word_of_xyn op).symm

theorem rowXY_encodesBack {pat : Word} {f : Reg → Reg → Instr} {a n : Nibble} (hpat : pat = wordXYN a 0 0 n)
    (henc : ∀ x y, encode (f x y) = wordXYN a x y n) : (rowXY pat f).EncodesBack := by
  intro op hsel
  obtain ⟨rfl, rfl⟩ := fields_eq_of_and_F00F ((Row.selects_iff.mp hsel).trans hpat)
  exact (henc _ _).trans (word_of_xyn op).symm

theorem rowX_encodesBack {pat : Word} {f : Reg → Instr} {a : Nibble} {nn : Byte} (hpat : pat = wordXNN a 0 nn)
    (henc : ∀ x, encode (f x) = wordXNN a x nn) : (rowX pat f).EncodesBack := by
  intro op hsel
  obtain ⟨rfl, rfl⟩ := fields_eq_of_and_F0FF ((Row.selects_iff.mp hsel).trans hpat)
  exact (henc _).trans (word_of_xnn op).symm

/-- A row that looks at every bit selects its match only. -/
theorem fixedRow_encodesBack {pat : Word} {ins : Instr} (henc : encode ins = pat) :
    Row.EncodesBack ⟨0xFFFF, pat, fun _ => ins⟩ := by
  intro op hsel
  have hop : op &&& BitVec.allOnes 16 = pat := Row.selects_iff.mp hsel
  rw [henc, ← hop, BitVec.and_allOnes]

theorem opcodeTable_encodesBack : ∀ row ∈ opcodeTable, row.EncodesBack := by
  rw [← List.forall_iff_forall_mem]
  simp only [opcodeTable, List.cons_append, List.nil_append, List.Forall]
  exact ⟨fixedRow_encodesBack rfl, fixedRow_encodesBack rfl, rowNNN_encodesBack rfl fun _ => rfl,
    rowNNN_encodesBack rfl fun _ => rfl, rowXNN_encodesBack rfl fun _ _ => rfl,
    rowXNN_encodesBack rfl fun _ _ => rfl, rowXY_encodesBack rfl fun _ _ => rfl,
    rowXNN_encodesBack rfl fun _ _ => rfl, rowXNN_encodesBack rfl fun _ _ => rfl,
    rowXY_encodesBack rfl fun _ _ => rfl, rowXY_encodesBack rfl fun _ _ => rfl, rowXY_encodesBack rfl fun _ _ => rfl,
    rowXY_encodesBack rfl fun _ _ => rfl, rowXY_encodesBack rfl fun _ _ => rfl, rowXY_encodesBack rfl fun _ _ => rfl,
    rowXY_encodesBack rfl fun _ _ => rfl, rowXY_encodesBack rfl fun _ _ => rfl, rowXY_encodesBack rfl fun _ _ => rfl,
    rowXY_encodesBack rfl fun _ _ => rfl, rowNNN_encodesBack rfl fun _ => rfl, rowNNN_encodesBack rfl fun _ => rfl,
    rowXNN_encodesBack rfl fun _ _ => rfl, rowXYN_encodesBack rfl fun _ _ _ => rfl,
    rowX_encodesBack rfl fun _ => rfl, rowX_encodesBack rfl fun _ => rfl, rowX_encodesBack rfl fun _ => rfl,
    rowX_encodesBack rfl fun _ => rfl, rowX_encodesBack rfl fun _ => rfl, rowX_encodesBack rfl fun _ => rfl,
    rowX_encodesBack rfl fun _ => rfl, rowX_encodesBack rfl fun _ => rfl, rowX_encodesBack rfl fun _ => rfl,
    rowX_encodesBack rfl fun _ => rfl, rowX_encodesBack rfl fun _ => rfl⟩

theorem decodeOp_eq_insn {op : Word} {ins : Instr} :
    decodeOp op = .insn ins ↔ ∃ row ∈ opcodeTable, row.selects op = true ∧ row.build op = ins := by
  constructor
  · intro h
    rw [decodeOp] at h
    split at h
    · next row hrow =>
      exact ⟨row, List.mem_of_find?_eq_some hrow, List.find?_some (p := (Row.selects · op)) hrow, by simpa using h⟩
    · cases h
  · rintro ⟨row, hrow, hsel, rfl⟩
    exact decodeOp_of_selects hrow hsel

end Sys2Proof

namespace Sys2Proof.Machine

/-- Settles O1: the two bytes of an encoding are put together to it again, and it selects the row that builds its
instruction. -/
theorem decodeOfEncode : Obligations.DecodeOfEncode := by
  intro ins rest
  rw [decode_pair, opcodeOf_bytes, decodeOp_encode]

/-- Settles O2: the decoder answers what a selected row builds, and what a row builds from an opcode encodes to it. -/
theorem encodeOfDecode : Obligations.EncodeOfDecode := by
  intro op ins h
  obtain ⟨row, hrow, hsel, rfl⟩ := decodeOp_eq_insn.mp h
  exact opcodeTable_encodesBack row hrow op hsel

/-- Settles O5: the legal words are the encodings of their instructions; on the illegal ones the scan of the table is run. -/
theorem sampleOpcodesDecode : Obligations.SampleOpcodesDecode :=
  ⟨decodeOfEncode (.jp 0x234) [], decodeOfEncode (.ldImm 0xA 0xFE) [], decodeOfEncode (.subReg 1 2) [],
    decodeOfEncode (.ldI 0xF01) [], decodeOfEncode (.storeRegs 3) [], decodeOfEncode (.drw 5 6 15) [],
    decodeOfEncode (.sknp 7) [], by decide, by decide⟩

end Sys2Proof.Machine
end

section
/-! The illegal space (`30_encoding.md` R98), in numbers: what each mask keeps of an opcode, and then the legal opcodes family
by family (the family is n0, the opcode divided by 0x1000). -/

namespace Sys2Proof

theorem toNat_append {v w : Nat} (a : BitVec v) (b : BitVec w) : (a ++ b).toNat = a.toNat * 2 ^ w + b.toNat := by
  rw [BitVec.toNat_append, ← Nat.shiftLeft_add_eq_or_of_lt b.isLt, Nat.shiftLeft_eq]

theorem toNat_n0 (op : Word) : (op.extractLsb' 12 4).toNat = op.toNat / 0x1000 := by
  have := op.isLt
  rw [BitVec.extractLsb'_toNat, Nat.shiftRight_eq_div_pow]
  omega

theorem and_FFFF (op : Word) : op &&& 0xFFFF#16 = op := BitVec.and_allOnes

theorem toNat_and_F000 (op : Word) : (op &&& 0xF000#16).toNat = op.toNat / 0x1000 * 0x1000 := by
  simp only [and_F000, wordNNN, toNat_append, toNat_n0, BitVec.ofNat_eq_ofNat, BitVec.toNat_ofNat]
  omega

theorem toNat_and_F00F (op : Word) : (op &&& 0xF00F#16).toNat = op.toNat / 0x1000 * 0x1000 + op.toNat % 16 := by
  have hn : (fieldN op).toNat = op.toNat % 16 := rfl
  simp only [and_F00F, wordXYN, toNat_append, toNat_n0, hn, BitVec.ofNat_eq_ofNat, BitVec.toNat_ofNat]
  omega

theorem toNat_and_F0FF (op : Word) : (op &&& 0xF0FF#16).toNat = op.toNat / 0x1000 * 0x1000 + op.toNat % 256 := by
  have hnn : (fieldNN op).toNat = op.toNat % 256 := rfl
  simp only [and_F0FF, wordXNN, toNat_append, toNat_n0, hnn, BitVec.ofNat_eq_ofNat, BitVec.toNat_ofNat]
  omega

/-- Some row selects the opcode exactly if R98 does not list it: in each of the 16 families the rows ask for the lower bits
that R98 leaves legal. -/
theorem exists_row_selects_iff (op : Word) :
    (∃ row ∈ opcodeTable, row.selects op = true) ↔ WellFormed.opcode op = true := by
  have hlt : op.toNat / 0x1000 < 16 := by have := op.isLt; omega
  simp only [opcodeTable, List.cons_append, List.nil_append, List.exists_mem_cons_iff, List.not_mem_nil, false_and,
    exists_false, or_false, Row.selects_iff, rowNNN, rowXNN, rowXY, rowX, ← BitVec.toNat_inj, and_FFFF, toNat_and_F000,
    toNat_and_F00F, toNat_and_F0FF, WellFormed.opcode, WellFormed.family0, WellFormed.family59, WellFormed.family8,
    WellFormed.familyE, WellFormed.familyF, BitVec.ofNat_eq_ofNat]
  generalize op.toNat = w at hlt ⊢
  generalize hfam : w / 0x1000 = fam at hlt ⊢
  interval_cases fam <;> simp <;> omega

end Sys2Proof

namespace Sys2Proof.Machine

theorem decodeOp_eq_illegal_iff (op : Word) : decodeOp op = .illegal op ↔ WellFormed.opcode op = false := by
  rw [← Bool.not_eq_true, ← exists_row_selects_iff]
  constructor
  · rintro hill ⟨row, hrow, hsel⟩
    rw [decodeOp_of_selects hrow hsel] at hill
    cases hill
  · intro hnone
    exact decodeOp_of_no_row fun row hrow hsel => hnone ⟨row, hrow, hsel⟩

/-- Settles O4: an opcode decodes where it selects a row, and by the numbers that is where R98 does not list it. -/
theorem illegalOpcodesAreExactlyTheListedOnes : Obligations.IllegalOpcodesAreExactlyTheListedOnes := by
  intro op
  refine ⟨decodeOp_eq_illegal_iff op, fun hlegal => ?_⟩
  obtain ⟨row, hrow, hsel⟩ := (exists_row_selects_iff op).mpr hlegal
  exact ⟨_, decodeOp_of_selects hrow hsel⟩

end Sys2Proof.Machine
end

section
/-! Frames, part by part. An update of one field keeps every part but the one it writes, and so does what is built from such
updates: the shared operations of the meanings and, from them, every instruction of a family. -/

namespace Sys2Proof.Machine

namespace Part

variable {p : Part} {s t u : State}

theorem same_refl (p : Part) (s : State) : p.same s s := by
  cases p <;> rfl

theorem same.trans (h : p.same s t) (h' : p.same t u) : p.same s u := by
  cases p <;> exact Eq.trans h' h

theorem same_withPc {pc : Word} (h : p ≠ .pc) : p.same s (s.withPc pc) := by
  cases p with
  | pc => exact absurd rfl h
  | _ => rfl

theorem same_withI {i : Word} (h : p ≠ .i) : p.same s (s.withI i) := by
  cases p with
  | i => exact absurd rfl h
  | _ => rfl

theorem same_withStack {stack : List Word} (h : p ≠ .stack) : p.same s (s.withStack stack) := by
  cases p with
  | stack => exact absurd rfl h
  | _ => rfl

theorem same_withDt {dt : Byte} (h : p ≠ .dt) : p.same s (s.withDt dt) := by
  cases p with
  | dt => exact absurd rfl h
  | _ => rfl

theorem same_withSt {st : Byte} (h : p ≠ .st) : p.same s (s.withSt st) := by
  cases p with
  | st => exact absurd rfl h
  | _ => rfl

theorem same_withMem {mem : Memory} (h : ∀ a, p = .byte a → mem.read a = s.mem.read a) :
    p.same s (s.withMem mem) := by
  cases p with
  | byte a => exact h a rfl
  | _ => rfl

theorem same_withDisplay {display : Display} (h : ∀ r c, p ≠ .pixel r c) : p.same s (s.withDisplay display) := by
  cases p with
  | pixel r c => exact absurd rfl (h r c)
  | _ => rfl

theorem same_withDirty {dirty : Bool} (h : p ≠ .dirty) : p.same s (s.withDirty dirty) := by
  cases p with
  | dirty => exact absurd rfl h
  | _ => rfl

theorem same_withDraws {draws : Nat} (h : p ≠ .draws) : p.same s (s.withDraws draws) := by
  cases p with
  | draws => exact absurd rfl h
  | _ => rfl

theorem same_takeFault {kind : Fault} {info : Nat} (h : p ≠ .fault) : p.same s (s.takeFault kind info) := by
  cases p with
  | fault => exact absurd rfl h
  | _ => rfl

theorem same_setV {x : Reg} {b : Byte} (h : p ≠ .v x) : p.same s (s.setV x b) := by
  cases p with
  | v z => exact s.getV_setV_other b fun e => h (congrArg Part.v e)
  | _ => rfl

theorem same_setVs {k : Nat} {bs : List Byte} (hk : k + bs.length ≤ 16)
    (h : ∀ z : Reg, k ≤ z.toNat → z.toNat < k + bs.length → p ≠ .v z) : p.same s (s.setVs k bs) := by
  cases p with
  | v z =>
    have hz : ¬(k ≤ z.toNat ∧ z.toNat < k + bs.length) := fun hin => h z hin.1 hin.2 rfl
    exact (s.getV_setVs k bs hk z).trans (dif_neg hz)
  | _ => rw [State.setVs_eq]; rfl

/-- A run of bytes stored from I on keeps every part but the bytes I, I + 1, … that it stores. -/
theorem same_store {bs : List Byte} (h : ∀ k < bs.length, p ≠ .byte (s.effAddr k)) :
    p.same s (s.withMem (s.mem.writeList (s.effAddr 0) bs)) := by
  refine same_withMem fun a hp => Memory.read_writeList_outside _ _ ?_
  by_contra hin
  refine h (a - s.i.toNat) ?_ (hp.trans (congrArg Part.byte ?_))
  all_goals simp only [State.effAddr] at hin ⊢; omega

theorem same_setVF {b : Byte} (h : p ≠ .v 0xF) : p.same s (s.setVF b) := same_setV h

theorem same_direct {d : Directive} (h : p ≠ .pc) : p.same s (s.direct d) := by
  cases d with
  | next => exact same_withPc h
  | skip => exact same_withPc h
  | hold => exact same_refl p s

/-! The shared operations. -/

theorem same_of_nextInsn {s' : State} (hpc : p ≠ .pc) (h : p.same s s') (he : s'.nextInsn = .next t) : p.same s t := by
  cases he
  exact h.trans (same_direct hpc)

theorem same_of_aluPlain {x : Reg} {b : Byte} (hp : ¬(p = .pc ∨ p = .v x)) (he : s.aluPlain x b = .next t) :
    p.same s t := by
  obtain ⟨hpc, hx⟩ := not_or.mp hp
  exact same_of_nextInsn hpc (same_setV hx) he

theorem same_of_aluFlag {x : Reg} {b f : Byte} (hp : ¬(p = .pc ∨ p = .v x ∨ p = .v 0xF))
    (he : s.aluFlag x b f = .next t) : p.same s t := by
  simp only [not_or] at hp
  obtain ⟨hpc, hx, hf⟩ := hp
  exact same_of_nextInsn hpc ((same_setV hx).trans (same_setVF hf)) he

theorem same_of_withI {i : Word} (hp : ¬(p = .pc ∨ p = .i)) (he : (s.withI i).nextInsn = .next t) : p.same s t := by
  obtain ⟨hpc, hi⟩ := not_or.mp hp
  exact same_of_nextInsn hpc (same_withI hi) he

theorem same_of_accessing {n : Nat} {k : Result} (hf : p ≠ .fault) (he : s.accessing n k = .next t)
    (hk : k = .next t → p.same s t) : p.same s t := by
  obtain ⟨-, hacc⟩ | ⟨-, -, hacc⟩ := s.accessing_cases n k
  · exact hk (hacc.symm.trans he)
  · rw [hacc] at he
    cases he
    exact same_takeFault hf

theorem same_of_skipOnKey {x : Reg} {pressed : Bool} (hp : ¬(p = .pc ∨ p = .fault))
    (he : s.skipOnKey x pressed = .next t) : p.same s t := by
  obtain ⟨hpc, hf⟩ := not_or.mp hp
  unfold State.skipOnKey at he
  split at he
  · cases he
    exact same_takeFault hf
  · cases he
    exact same_direct hpc

end Part

theorem State.stack_cases (s : State) : s.sp = 0 ∨ ∃ rest v, s.stack = rest ++ [v] := by
  rcases List.eq_nil_or_concat' s.stack with hnil | happ
  · exact .inl (List.length_eq_zero_iff.mpr hnil)
  · exact .inr happ

theorem exec_call_of_room {s : State} (nnn : Addr12) (h : s.sp < 16) :
    exec (.call nnn) s = .next ((s.withStack (s.stack ++ [s.pc + 2])).withPc (zext16 nnn)) := by
  have hpush : s.push? (s.pc + 2) = some (s.withStack (s.stack ++ [s.pc + 2])) := (s.push?_eq_some _ _).mpr ⟨h, rfl⟩
  simp only [exec, execCall, hpush, State.direct_hold]

/-- Settles O24: the jumps and skips write PC only; 2nnn and 00EE also the stack, or take a fault instead. -/
theorem controlTransferFrame : Obligations.ControlTransferFrame := by
  intro ins s t p hfam he hp
  cases ins with
  | jp | jpV0 =>
    cases he
    exact Part.same_withPc hp
  | seImm | sneImm | seReg | sneReg =>
    cases he
    exact Part.same_direct hp
  | ret =>
    simp only [mayWrite, not_or] at hp
    obtain ⟨hpc, hstack, hfault⟩ := hp
    obtain hempty | ⟨rest, v, happ⟩ := s.stack_cases
    · rw [exec_ret_of_empty hempty] at he
      cases he
      exact Part.same_takeFault hfault
    · rw [exec_ret_of_append happ] at he
      cases he
      exact (Part.same_withStack hstack).trans (Part.same_withPc hpc)
  | call nnn =>
    simp only [mayWrite, not_or] at hp
    obtain ⟨hpc, hstack, hfault⟩ := hp
    obtain hroom | hfull := Nat.lt_or_ge s.sp 16
    · rw [exec_call_of_room nnn hroom] at he
      cases he
      exact (Part.same_withStack hstack).trans (Part.same_withPc hpc)
    · rw [exec_call_of_full nnn hfull] at he
      cases he
      exact Part.same_takeFault hfault
  | _ => cases hfam

/-- Settles O25: the forms without a flag write V[x], the flag writers V[x] and VF; Cxnn first counts the byte it draws. -/
theorem registerAluFrame : Obligations.RegisterAluFrame := by
  intro ins s t p hfam he hp
  cases ins with
  | ldImm | addImm | ldReg | orReg | andReg | xorReg => exact Part.same_of_aluPlain hp he
  | addReg | subReg | shr | subn | shl => exact Part.same_of_aluFlag hp he
  | rnd x nn =>
    simp only [mayWrite, not_or] at hp
    obtain ⟨hpc, hx, hdraws⟩ := hp
    exact (Part.same_withDraws hdraws).trans (Part.same_of_aluPlain (not_or.mpr ⟨hpc, hx⟩) he)
  | _ => cases hfam

/-- Settles O26: each of the three sets I and goes on. -/
theorem indexFrame : Obligations.IndexFrame := by
  intro ins s t p hfam he hp
  cases ins with
  | ldI | addI | ldF => exact Part.same_of_withI hp he
  | _ => cases hfam

/-- Settles O27: past the check of the addresses, which may take a fault, Fx33 and Fx55 store a run of bytes from I on and
Fx65 loads the registers up to V[x]. -/
theorem memoryFrame : Obligations.MemoryFrame := by
  intro ins s t p hfam he hp
  cases ins with
  | ldB x =>
    simp only [mayWrite, not_or, not_exists, not_and] at hp
    obtain ⟨hpc, hfault, hbytes⟩ := hp
    exact Part.same_of_accessing hfault he (Part.same_of_nextInsn hpc (Part.same_store hbytes))
  | storeRegs x =>
    simp only [mayWrite, not_or, not_exists, not_and] at hp
    obtain ⟨hpc, hfault, hbytes⟩ := hp
    refine Part.same_of_accessing hfault he (Part.same_of_nextInsn hpc (Part.same_store fun k hk => ?_))
    rw [State.length_getVs] at hk
    exact hbytes k (Nat.le_of_lt_succ hk)
  | loadRegs x =>
    simp only [mayWrite, not_or, not_exists, not_and] at hp
    obtain ⟨hpc, hfault, hregs⟩ := hp
    have hx := x.isLt
    refine Part.same_of_accessing hfault he (Part.same_of_nextInsn hpc (Part.same_setVs ?_ fun z _ hz => ?_))
    · rw [Memory.length_readList]
      omega
    · rw [Memory.length_readList] at hz
      exact hregs z (by omega)
  | _ => cases hfam

/-- Settles O28: 00E0 writes the display and DIRTY; Dxyn, past the check of its rows' addresses, also VF. -/
theorem displayFrame : Obligations.DisplayFrame := by
  intro ins s t p hfam he hp
  cases ins with
  | cls =>
    simp only [mayWrite, not_or, not_exists] at hp
    obtain ⟨hpc, hdirty, hpixels⟩ := hp
    exact Part.same_of_nextInsn hpc ((Part.same_withDisplay hpixels).trans (Part.same_withDirty hdirty)) he
  | drw x y n =>
    simp only [mayWrite, not_or, not_exists] at hp
    obtain ⟨hpc, hvf, hdirty, hfault, hpixels⟩ := hp
    exact Part.same_of_accessing hfault he (Part.same_of_nextInsn hpc
      (((Part.same_withDisplay hpixels).trans (Part.same_setVF hvf)).trans (Part.same_withDirty hdirty)))
  | _ => cases hfam

/-- Settles O29: the skips write PC or take a fault; the other four write their one destination, and a waiting Fx0A nothing
at all. -/
theorem timersAndKeysFrame : Obligations.TimersAndKeysFrame := by
  intro ins s t p hfam he hp
  cases ins with
  | skp | sknp => exact Part.same_of_skipOnKey hp he
  | ldVxDt => exact Part.same_of_aluPlain hp he
  | ldVxK x =>
    cases hkey : s.firstKey 0 16 with
    | some k =>
      rw [exec_ldVxK_of_firstKey x hkey] at he
      exact Part.same_of_aluPlain hp he
    | none =>
      rw [exec_ldVxK_of_no_key x hkey] at he
      cases he
      exact Part.same_refl p s
  | ldDtVx =>
    obtain ⟨hpc, hdt⟩ := not_or.mp hp
    exact Part.same_of_nextInsn hpc (Part.same_withDt hdt) he
  | ldStVx =>
    obtain ⟨hpc, hst⟩ := not_or.mp hp
    exact Part.same_of_nextInsn hpc (Part.same_withSt hst) he
  | _ => cases hfam

/-- The frames of the six families together: no instruction changes a part that it may not write. -/
theorem exec_frame {ins : Instr} {s t : State} {p : Part} (he : exec ins s = .next t) (hp : ¬mayWrite ins s p) :
    p.same s t := by
  cases hfam : family ins with
  | control => exact controlTransferFrame ins s t p hfam he hp
  | alu => exact registerAluFrame ins s t p hfam he hp
  | index => exact indexFrame ins s t p hfam he hp
  | memory => exact memoryFrame ins s t p hfam he hp
  | display => exact displayFrame ins s t p hfam he hp
  | timersKeys => exact timersAndKeysFrame ins s t p hfam he hp

end Sys2Proof.Machine
end

section
/-! Which instruction raises which fault (`60_exceptions.md` R250), said once of `exec`; every instruction answers a next
state, which keeps FAULT where none is raised. -/

namespace Sys2Proof.Machine

/-- In `s` the instruction raises a fault of this kind with this information (R250). Fetch and decode raise the two kinds that
no instruction does. -/
def Raises (ins : Instr) (s : State) : Fault → Nat → Prop
  | .stackOverflow, info => (∃ nnn, ins = .call nnn) ∧ 16 ≤ s.sp ∧ info = s.pc.toNat
  | .stackUnderflow, info => ins = .ret ∧ s.sp = 0 ∧ info = s.pc.toNat
  | .memOutOfBounds, info =>
    0 < accessCount ins ∧ 4096 < s.i.toNat + accessCount ins ∧ info = max s.i.toNat 4096
  | .keyOutOfBounds, info =>
    ∃ x, (ins = .skp x ∨ ins = .sknp x) ∧ 16 ≤ (s.getV x).toNat ∧ info = (s.getV x).toNat
  | .decodeError, _ => False
  | .fetchOutOfBounds, _ => False

/-- Every instruction begins with the check of the bytes that it accesses, of which there may be none (R65). -/
theorem exec_eq_accessing (ins : Instr) (s : State) : exec ins s = s.accessing (accessCount ins) (exec ins s) := by
  have idem (n : Nat) (k : Result) : s.accessing n k = s.accessing n (s.accessing n k) := by
    obtain ⟨-, h⟩ | ⟨h0, h1, h⟩ := s.accessing_cases n k
    · rw [h, h]
    · rw [h, s.accessing_of_gt _ h0 h1]
  cases ins with
  | drw | ldB | storeRegs | loadRegs => exact idem _ _
  | _ => exact (s.accessing_of_le _ (.inl rfl)).symm

theorem exec_of_access_outside {ins : Instr} {s : State} (h0 : 0 < accessCount ins)
    (h : 4096 < s.i.toNat + accessCount ins) :
    exec ins s = .next (s.takeFault .memOutOfBounds (max s.i.toNat 4096)) := by
  rw [exec_eq_accessing, s.accessing_of_gt _ h0 h]

theorem State.keyRead?_of_lt {s : State} {v : Byte} (h : v.toNat < 16) : s.keyRead? v = some (s.key v.toNat) :=
  if_neg h.not_ge

theorem State.keyRead?_of_ge {s : State} {v : Byte} (h : 16 ≤ v.toNat) : s.keyRead? v = none :=
  if_pos h

theorem State.skipOnKey_of_lt {s : State} {x : Reg} (pressed : Bool) (h : (s.getV x).toNat < 16) :
    s.skipOnKey x pressed = .next (s.direct (skipIf (s.key (s.getV x).toNat == pressed))) := by
  simp only [State.skipOnKey, State.keyRead?_of_lt h]

theorem State.skipOnKey_of_ge {s : State} {x : Reg} (pressed : Bool) (h : 16 ≤ (s.getV x).toNat) :
    s.skipOnKey x pressed = .next (s.takeFault .keyOutOfBounds (s.getV x).toNat) := by
  simp only [State.skipOnKey, State.keyRead?_of_ge h]

/-- The inversion of the execute step as to faults: FAULT is kept, or the instruction takes the fault that it raises. -/
theorem exec_cases (ins : Instr) (s : State) :
    (∃ t, exec ins s = .next t ∧ t.fault = s.fault) ∨
    ∃ kind info, Raises ins s kind info ∧ exec ins s = .next (s.takeFault kind info) := by
  by_cases hout : 0 < accessCount ins ∧ 4096 < s.i.toNat + accessCount ins
  · exact .inr ⟨.memOutOfBounds, _, ⟨hout.1, hout.2, rfl⟩, exec_of_access_outside hout.1 hout.2⟩
  · have hin : accessCount ins = 0 ∨ s.i.toNat + accessCount ins ≤ 4096 := by omega
    cases ins with
    | ret =>
      obtain hempty | ⟨rest, v, happ⟩ := s.stack_cases
      · exact .inr ⟨.stackUnderflow, _, ⟨rfl, hempty, rfl⟩, exec_ret_of_empty hempty⟩
      · exact .inl ⟨_, exec_ret_of_append happ, rfl⟩
    | call nnn =>
      obtain hroom | hfull := Nat.lt_or_ge s.sp 16
      · exact .inl ⟨_, exec_call_of_room nnn hroom, rfl⟩
      · exact .inr ⟨.stackOverflow, _, ⟨⟨nnn, rfl⟩, hfull, rfl⟩, exec_call_of_full nnn hfull⟩
    | skp x =>
      obtain hlt | hge := Nat.lt_or_ge (s.getV x).toNat 16
      · exact .inl ⟨_, State.skipOnKey_of_lt true hlt, s.direct_fault _⟩
      · exact .inr ⟨.keyOutOfBounds, _, ⟨x, .inl rfl, hge, rfl⟩, State.skipOnKey_of_ge true hge⟩
    | sknp x =>
      obtain hlt | hge := Nat.lt_or_ge (s.getV x).toNat 16
      · exact .inl ⟨_, State.skipOnKey_of_lt false hlt, s.direct_fault _⟩
      · exact .inr ⟨.keyOutOfBounds, _, ⟨x, .inr rfl, hge, rfl⟩, State.skipOnKey_of_ge false hge⟩
    | seImm | sneImm | seReg | sneReg => exact .inl ⟨_, rfl, s.direct_fault _⟩
    | ldVxK x =>
      cases hkey : s.firstKey 0 16 with
      | some k => exact .inl ⟨_, exec_ldVxK_of_firstKey x hkey, rfl⟩
      | none => exact .inl ⟨_, exec_ldVxK_of_no_key x hkey, rfl⟩
    | drw | ldB | storeRegs => exact .inl ⟨_, s.accessing_of_le _ hin, rfl⟩
    | loadRegs =>
      refine .inl ⟨_, s.accessing_of_le _ hin, ?_⟩
      rw [State.direct_fault, State.setVs_eq, State.withV_fault]
    | _ => exact .inl ⟨_, rfl, rfl⟩

theorem exec_next (ins : Instr) (s : State) : ∃ t, exec ins s = .next t := by
  obtain ⟨t, ht, -⟩ | ⟨_, _, -, ht⟩ := exec_cases ins s
  · exact ⟨t, ht⟩
  · exact ⟨_, ht⟩

theorem exec_fault {ins : Instr} {s t : State} (hn : s.fault = none) (he : exec ins s = .next t) :
    t.fault = none ∨ ∃ kind info, Raises ins s kind info ∧ t.fault = some ⟨kind, info, s.pc⟩ := by
  obtain ⟨t', ht, hkeep⟩ | ⟨kind, info, hraises, ht⟩ := exec_cases ins s
  · cases ht.symm.trans he
    exact .inl (hkeep.trans hn)
  · cases ht.symm.trans he
    exact .inr ⟨kind, info, hraises, rfl⟩

/-- Settles O52: the check of the addresses fails, and the lowest address outside is I or, where I is inside, 4096. -/
theorem outOfBoundsAccessFaults : Obligations.OutOfBoundsAccessFaults := by
  intro ins s h0 h
  have hmax : max s.i.toNat 4096 < s.i.toNat + accessCount ins := by omega
  exact ⟨_, _, exec_of_access_outside h0 (by omega), s.takeFault_fault .., rfl, rfl, le_max_right .., le_max_left ..,
    hmax, fun _ hi ha => max_le hi ha⟩

/-- Settles O57: below 16 the key is read and the skip depends on it; from 16 on the key is not read and the fault taken. -/
theorem keySkips : Obligations.KeySkips := by
  intro s x
  refine ⟨fun hlt => ⟨⟨_, State.skipOnKey_of_lt true hlt, s.direct_fault _, ?_⟩,
    ⟨_, State.skipOnKey_of_lt false hlt, s.direct_fault _, ?_⟩⟩, ?_⟩
  · simp only [State.direct_skipIf_pc, beq_iff_eq]
  · rw [State.direct_skipIf_pc]
    cases s.key (s.getV x).toNat <;> rfl
  · rintro hge ins (rfl | rfl)
    · exact ⟨_, _, State.skipOnKey_of_ge true hge, s.takeFault_fault .., rfl, rfl⟩
    · exact ⟨_, _, State.skipOnKey_of_ge false hge, s.takeFault_fault .., rfl, rfl⟩

end Sys2Proof.Machine
end

section
/-! The inversions of a tick (`40_cycle.md` R120, R133): one that ends with a fault is the state of before it with the record,
which fetch, decode or the instruction gave; one that ends without is the timer step on what its instruction left. -/

namespace Sys2Proof.Machine

theorem decodeOp_illegal_eq {op op' : Word} (h : decodeOp op = .illegal op') : op' = op := by
  unfold decodeOp at h
  split at h
  · cases h
  · cases h
    rfl

/-- What fetch and decode raise, and when (R122, R123). -/
theorem State.fetchDecode_eq_raised {s : State} {kind : Fault} {info : Nat} (h : s.fetchDecode = .raised kind info) :
    (kind = .fetchOutOfBounds ∧ 4096 ≤ s.pc.toNat + 1 ∧ info = s.pc.toNat) ∨
    (kind = .decodeError ∧ s.pc.toNat + 1 < 4096 ∧ ∃ op, op = opcodeOf (s.mem.read s.pc.toNat) (s.mem.read (s.pc.toNat + 1)) ∧
      decodeOp op = .illegal op ∧ info = op.toNat) := by
  obtain hin | hout := Nat.lt_or_ge (s.pc.toNat + 1) 4096
  · obtain ⟨ins, -, hf⟩ | ⟨op, hd, hf⟩ := State.fetchDecode_cases hin
    · cases hf.symm.trans h
    · cases hf.symm.trans h
      cases decodeOp_illegal_eq hd
      exact .inr ⟨rfl, hin, _, rfl, hd, rfl⟩
  · cases (State.fetchDecode_of_ge hout).symm.trans h
    exact .inl ⟨rfl, hout, rfl⟩

theorem State.pc_lt_of_fetchDecode {s : State} {ins : Instr} (h : s.fetchDecode = .insn ins) : s.pc.toNat + 1 < 4096 := by
  by_contra hout
  cases (State.fetchDecode_of_ge (Nat.le_of_not_lt hout)).symm.trans h

theorem step_fault_cases {s t : State} {r : FaultRecord} (hn : s.fault = none) (h : step s = .next t)
    (hr : t.fault = some r) :
    t = s.withFault (some r) ∧ r.pc = s.pc ∧
      (s.fetchDecode = .raised r.kind r.info ∨ ∃ ins, s.fetchDecode = .insn ins ∧ Raises ins s r.kind r.info) := by
  obtain ⟨⟨r', hr'⟩, -⟩ | ⟨-, kind, info, hf, rfl⟩ | ⟨-, ins, u, hf, he, rfl⟩ := step_cases h
  · cases hn.symm.trans hr'
  · cases hr
    exact ⟨rfl, rfl, .inl hf⟩
  · obtain hu | ⟨kind, info, hraises, hu⟩ := exec_fault (s := s.beginTick) hn he
    · rw [State.endTick_of_none hu, State.timerStep_fault, hu] at hr
      cases hr
    · rw [State.endTick_of_some hu] at hr ⊢
      cases hr
      exact ⟨rfl, rfl, .inr ⟨ins, hf, by cases kind <;> exact hraises⟩⟩

theorem step_without_fault {s t : State} (h : step s = .next t) (ht : t.fault = none) :
    ∃ ins u, s.fetchDecode = .insn ins ∧ exec ins s.beginTick = .next u ∧ u.fault = none ∧ t = u.timerStep := by
  obtain ⟨⟨r, hr⟩, rfl⟩ | ⟨-, kind, info, -, rfl⟩ | ⟨-, ins, u, hf, he, rfl⟩ := step_cases h
  · cases ht.symm.trans hr
  · cases ht
  · cases hu : u.fault with
    | none => exact ⟨ins, u, hf, he, hu, State.endTick_of_none hu⟩
    | some r =>
      rw [State.endTick_of_some hu] at ht
      cases ht

/-- Settles O15: the three ways through a tick all end in a next state, since every instruction answers one. -/
theorem everyStepAnswersANextState : Obligations.EveryStepAnswersANextState := by
  intro s
  cases hn : s.fault with
  | some r => exact ⟨_, step_of_fault hn⟩
  | none =>
    cases hf : s.fetchDecode with
    | raised kind info => exact ⟨_, step_of_raised hn hf⟩
    | insn ins =>
      obtain ⟨u, hu⟩ := exec_next ins s.beginTick
      exact ⟨_, step_of_insn hn hf hu⟩

/-- Settles O9: the sticky fault is the first test of a tick. -/
theorem faultIsSticky : Obligations.FaultIsSticky :=
  fun _ _ h => step_of_fault h

/-- Settles O10: a tick that raised a fault is the state of before it with the record set. -/
theorem faultingTickRestoresState : Obligations.FaultingTickRestoresState := by
  intro s t r hn h hr
  obtain ⟨rfl, hpc, -⟩ := step_fault_cases hn h hr
  exact ⟨hpc, rfl, rfl, rfl, rfl, rfl, rfl, fun _ => rfl⟩

/-- Settles O11: the record is what fetch or decode raised, or what the decoded instruction did. -/
theorem eachFaultHasItsRaiser : Obligations.EachFaultHasItsRaiser := by
  rintro s t ⟨kind, info, pc⟩ hn h hr
  obtain ⟨-, -, hraised | ⟨ins, hf, hraises⟩⟩ := step_fault_cases hn h hr
  · obtain ⟨rfl, hout, rfl⟩ | ⟨rfl, hin, op, hop, hill, rfl⟩ := State.fetchDecode_eq_raised hraised
    · exact ⟨hout, rfl⟩
    · exact ⟨hin, op, (decodeOp_eq_illegal_iff op).mp hill, rfl, by rw [hop, toNat_opcodeOf]⟩
  · cases kind with
    | stackOverflow =>
      obtain ⟨⟨nnn, rfl⟩, hsp, hinfo⟩ := hraises
      exact ⟨⟨nnn, hf⟩, hsp, hinfo⟩
    | stackUnderflow =>
      obtain ⟨rfl, hsp, hinfo⟩ := hraises
      exact ⟨hf, hsp, hinfo⟩
    | memOutOfBounds => exact ⟨ins, hf, hraises⟩
    | keyOutOfBounds =>
      obtain ⟨x, rfl | rfl, hx, hinfo⟩ := hraises
      · exact ⟨x, .inl hf, hx, hinfo⟩
      · exact ⟨x, .inr hf, hx, hinfo⟩
    | decodeError | fetchOutOfBounds => exact hraises.elim

/-- Settles O6: the two bytes at PC are what the tick fetches, so it runs the instruction on the state with DIRTY cleared; the
end of the tick is the timer step, or the state of before it with the record. -/
theorem stepRunsDecodedInstruction : Obligations.StepRunsDecodedInstruction := by
  intro s t ins hn hpc hd he
  have hf : s.fetchDecode = .insn ins := State.fetchDecode_of_insn (State.fetch?_of_lt hpc) hd
  have hfaulting (r : FaultRecord) (hr : t.fault = some r) : step s = .next (s.withFault (some r)) := by
    rw [step_of_insn hn hf he, State.endTick_of_some hr]
  exact ⟨step_of_insn_without_fault hn hf he,
    fun r hr => ⟨_, hfaulting r hr, rfl, rfl, rfl, rfl, rfl, rfl, rfl, fun _ => rfl⟩, fun r hr _ => hfaulting r hr⟩

end Sys2Proof.Machine
end

section
/-! Which instructions may write which part of the state, and what the frames then give for an instruction and a tick. -/

namespace Sys2Proof.Machine

theorem mayWrite_dt_iff {ins : Instr} {s : State} : mayWrite ins s .dt ↔ ∃ x, ins = .ldDtVx x := by
  cases ins <;> simp [mayWrite]

theorem mayWrite_st_iff {ins : Instr} {s : State} : mayWrite ins s .st ↔ ∃ x, ins = .ldStVx x := by
  cases ins <;> simp [mayWrite]

theorem mayWrite_draws_iff {ins : Instr} {s : State} : mayWrite ins s .draws ↔ ∃ x nn, ins = .rnd x nn := by
  cases ins <;> simp [mayWrite]

theorem mayWrite_dirty_iff {ins : Instr} {s : State} :
    mayWrite ins s .dirty ↔ ins = .cls ∨ ∃ x y n, ins = .drw x y n := by
  cases ins <;> simp [mayWrite]

theorem not_mayWrite_key (ins : Instr) (s : State) (k : Nat) : ¬mayWrite ins s (.key k) := by
  cases ins <;> simp [mayWrite]

theorem exec_key {ins : Instr} {s t : State} (he : exec ins s = .next t) (k : Nat) : t.key k = s.key k :=
  exec_frame he (not_mayWrite_key ins s k)

theorem exec_dt {ins : Instr} {s t : State} (he : exec ins s = .next t) (h : ∀ x, ins ≠ .ldDtVx x) : t.dt = s.dt :=
  exec_frame (p := .dt) he (by simpa [mayWrite_dt_iff] using h)

theorem exec_st {ins : Instr} {s t : State} (he : exec ins s = .next t) (h : ∀ x, ins ≠ .ldStVx x) : t.st = s.st :=
  exec_frame (p := .st) he (by simpa [mayWrite_st_iff] using h)

/-- Settles O13: a tick without a fault ends in the timer step, and an instruction leaves a timer that it does not write. -/
theorem timersStepEveryTick : Obligations.TimersStepEveryTick := by
  intro s t ins _ hf h ht
  obtain ⟨ins', u, hf', he, -, rfl⟩ := step_without_fault h ht
  cases hf'.symm.trans hf
  rw [State.timerStep_dt, State.timerStep_st, timerDown_toNat, timerDown_toNat]
  refine ⟨?_, fun hdt => ?_, ?_, fun hst => ?_⟩
  · rintro x rfl
    cases he
    rfl
  · rw [exec_dt he hdt, State.beginTick_dt]
  · rintro x rfl
    cases he
    rfl
  · rw [exec_st he hst, State.beginTick_st]

theorem State.key_setKey (s : State) (k : Fin 16) (pressed : Bool) (j : Nat) :
    (s.setKey k pressed).key j = if j = k.val then pressed else s.key j := by
  by_cases hj : j < 16
  · simp only [State.key, State.setKey, State.withKeys_keys, dif_pos hj, Vector.getElem_set, eq_comm]
  · have hne : j ≠ k.val := by have := k.isLt; omega
    simp only [State.key, dif_neg hj, if_neg hne]

/-- Settles O21: one entry of the key vector is set; a tick keeps the keys in each of its three ways, since no instruction
may write one. -/
theorem keysAreTheHosts : Obligations.KeysAreTheHosts := by
  refine ⟨fun s k pressed => ⟨?_, fun j hj => ?_, rfl⟩, fun s t h j => ?_⟩
  · rw [State.key_setKey, if_pos rfl]
  · rw [State.key_setKey, if_neg hj]
  · obtain ⟨-, rfl⟩ | ⟨-, kind, info, -, rfl⟩ | ⟨-, ins, u, -, he, rfl⟩ := step_cases h
    · rfl
    · rfl
    · cases hu : u.fault with
      | some r => rw [State.endTick_of_some hu, State.withFault_key]
      | none => rw [State.endTick_of_none hu, State.timerStep_key, exec_key he, State.beginTick_key]

theorem exec_rnd (x : Reg) (nn : Byte) (s : State) :
    exec (.rnd x nn) s = (s.withDraws (s.draws + 1)).aluPlain x (Config.rand s.draws &&& nn) := rfl

/-- Settles O44: Cxnn is a plain register write after the count of the drawn byte; no other instruction may write the
count. -/
theorem randomAndDrawsOneByte : Obligations.RandomAndDrawsOneByte := by
  refine ⟨fun s x nn => ⟨_, exec_rnd x nn s, ?_, rfl, fun hx => ?_, rfl, rfl⟩, fun ins s t hins he => ?_⟩
  · rw [State.direct_getV, State.getV_setV_same]
  · rw [State.direct_getV, State.getV_setV_other _ _ hx.symm, State.withDraws_getV]
  · exact exec_frame (p := .draws) he (by simpa [mayWrite_draws_iff] using hins)

end Sys2Proof.Machine
end

section
/-! The flags (`42_register_alu.md` R166 to R170, `44_display.md` R213): an instruction that writes a result and then VF, and
the values that it writes there. -/

namespace Sys2Proof.Machine

theorem flagByte_eq_zero_or_one (c : Bool) : flagByte c = 0 ∨ flagByte c = 1 := by
  cases c
  · exact .inl rfl
  · exact .inr rfl

theorem State.aluFlag_eq_next (s : State) (x : Reg) (b f : Byte) :
    s.aluFlag x b f = .next (((s.setV x b).setVF f).direct .next) := rfl

/-- An instruction that answers `aluFlag` sets V[x], and VF last, so that for x = F the flag stays (R24). -/
theorem exists_next_of_aluFlag {ins : Instr} {s : State} {x : Reg} {b f : Byte} (he : exec ins s = s.aluFlag x b f) :
    ∃ t, exec ins s = .next t ∧ (x ≠ 0xF → t.getV x = b) ∧ t.getV 0xF = f ∧ t.pc = s.pc + 2 ∧ t.fault = s.fault := by
  refine ⟨_, he.trans (s.aluFlag_eq_next x b f), fun hx => ?_, ?_, rfl, rfl⟩
  · rw [State.direct_getV, State.getV_setVF, if_neg hx, State.getV_setV_same]
  · rw [State.direct_getV, State.getV_setVF, if_pos rfl]

theorem flagByte_decide (c : Prop) [Decidable c] : flagByte (decide c) = if c then 1 else 0 := by
  simp only [flagByte, decide_eq_true_eq]

theorem exec_orReg (x y : Reg) (s : State) : exec (.orReg x y) s = s.aluPlain x (s.getV x ||| s.getV y) := rfl

theorem exec_andReg (x y : Reg) (s : State) : exec (.andReg x y) s = s.aluPlain x (s.getV x &&& s.getV y) := rfl

theorem exec_xorReg (x y : Reg) (s : State) : exec (.xorReg x y) s = s.aluPlain x (s.getV x ^^^ s.getV y) := rfl

theorem exec_addReg (x y : Reg) (s : State) :
    exec (.addReg x y) s = s.aluFlag x (s.getV x + s.getV y) (carryFlag (s.getV x) (s.getV y)) := rfl

theorem exec_subReg (x y : Reg) (s : State) :
    exec (.subReg x y) s = s.aluFlag x (s.getV x - s.getV y) (noBorrowFlag (s.getV x) (s.getV y)) := rfl

theorem exec_subn (x y : Reg) (s : State) :
    exec (.subn x y) s = s.aluFlag x (s.getV y - s.getV x) (noBorrowFlag (s.getV y) (s.getV x)) := rfl

theorem exec_shr (x y : Reg) (s : State) :
    exec (.shr x y) s = s.aluFlag x (s.getV x >>> 1) (shiftedOutLow (s.getV x)) := rfl

theorem exec_shl (x y : Reg) (s : State) :
    exec (.shl x y) s = s.aluFlag x (s.getV x <<< 1) (shiftedOutHigh (s.getV x)) := rfl

/-- Settles O39: all three are plain register writes of a bitwise operation. -/
theorem bitwiseOperations : Obligations.BitwiseOperations := by
  intro s x y
  refine ⟨?_, ?_, ?_⟩
  · obtain ⟨t, ht, hx, hkeep⟩ := exists_next_of_aluPlain (exec_orReg x y s)
    exact ⟨t, ht, fun k => by rw [hx, BitVec.getLsbD_or], hkeep⟩
  · obtain ⟨t, ht, hx, hkeep⟩ := exists_next_of_aluPlain (exec_andReg x y s)
    exact ⟨t, ht, fun k => by rw [hx, BitVec.getLsbD_and], hkeep⟩
  · obtain ⟨t, ht, hx, hkeep⟩ := exists_next_of_aluPlain (exec_xorReg x y s)
    exact ⟨t, ht, fun k => by rw [hx, BitVec.getLsbD_xor], hkeep⟩

/-- Settles O40: the sum of bytes wraps at 256, and the flag is the carry. -/
theorem addWithCarry : Obligations.AddWithCarry := by
  intro s x y
  obtain ⟨t, ht, hx, hf, hkeep⟩ := exists_next_of_aluFlag (exec_addReg x y s)
  exact ⟨t, ht, fun hne => by rw [hx hne, BitVec.toNat_add], by rw [hf, carryFlag, flagByte_decide], hkeep⟩

/-- A difference of bytes, in integers. -/
theorem toNat_sub_byte (a b : Byte) : ((a - b).toNat : Int) = ((a.toNat : Int) - b.toNat) % 256 := by
  have := a.isLt
  have := b.isLt
  rw [BitVec.toNat_sub]
  omega

/-- Settles O41: the difference of bytes wraps at 256, and the flag is the lack of a borrow. -/
theorem subtractWithBorrow : Obligations.SubtractWithBorrow := by
  intro s x y
  obtain ⟨t, ht, hx, hf, hkeep⟩ := exists_next_of_aluFlag (exec_subReg x y s)
  exact ⟨t, ht, fun hne => by rw [hx hne, toNat_sub_byte], by rw [hf, noBorrowFlag, flagByte_decide], hkeep⟩

/-- Settles O42: the difference the other way round, with its lack of a borrow. -/
theorem reverseSubtractWithBorrow : Obligations.ReverseSubtractWithBorrow := by
  intro s x y
  obtain ⟨t, ht, hx, hf, hkeep⟩ := exists_next_of_aluFlag (exec_subn x y s)
  exact ⟨t, ht, fun hne => by rw [hx hne, toNat_sub_byte], by rw [hf, noBorrowFlag, flagByte_decide], hkeep⟩

theorem toNat_flagByte (c : Bool) : (flagByte c).toNat = c.toNat := by
  cases c <;> rfl

theorem toNat_shiftedOutLow (a : Byte) : (shiftedOutLow a).toNat = a.toNat % 2 := by
  rw [shiftedOutLow, toNat_flagByte, BitVec.getLsbD, Nat.toNat_testBit, Nat.pow_zero, Nat.div_one]

theorem toNat_shiftedOutHigh (a : Byte) : (shiftedOutHigh a).toNat = a.toNat / 128 := by
  have := a.isLt
  rw [shiftedOutHigh, toNat_flagByte, BitVec.getLsbD, Nat.toNat_testBit]
  omega

/-- Settles O43: the shifts halve and double V[x], and the flag is the bit moved out. -/
theorem shiftsInPlace : Obligations.ShiftsInPlace := by
  intro s x y
  constructor
  · obtain ⟨t, ht, hx, hf, hkeep⟩ := exists_next_of_aluFlag (exec_shr x y s)
    refine ⟨t, ht, fun hne => ?_, by rw [hf, toNat_shiftedOutLow], hkeep⟩
    rw [hx hne, BitVec.toNat_ushiftRight, Nat.shiftRight_eq_div_pow]
  · obtain ⟨t, ht, hx, hf, hkeep⟩ := exists_next_of_aluFlag (exec_shl x y s)
    refine ⟨t, ht, fun hne => ?_, by rw [hf, toNat_shiftedOutHigh], hkeep⟩
    rw [hx hne, BitVec.toNat_shiftLeft, Nat.shiftLeft_eq]

end Sys2Proof.Machine
end

section
/-! Calls and returns (`41_control_flow.md` R142, R144, R145), and the timer accesses (`45_timers_keys.md` R231 to R233). -/

namespace Sys2Proof.Machine

/-- Settles O31: a stack with room takes PC + 2 as its newest entry. -/
theorem callPushesReturnAddress : Obligations.CallPushesReturnAddress := by
  intro s nnn h
  exact ⟨_, exec_call_of_room nnn h, rfl, List.length_append, toNat_zext16 (by decide) nnn, rfl⟩

/-- Settles O34: the newest entry that the return finds is the one that the call pushed. -/
theorem returnResumesAfterCall : Obligations.ReturnResumesAfterCall := by
  intro s t t' nnn hroom he hstack
  cases (exec_call_of_room nnn hroom).symm.trans he
  exact ⟨_, exec_ret_of_append hstack, rfl, rfl⟩

theorem exec_jpV0 (nnn : Addr12) (s : State) :
    exec (.jpV0 nnn) s = .next (s.withPc (zext16 (s.getV 0) + zext16 nnn)) := rfl

theorem toNat_zext16_add (b : Byte) (nnn : Addr12) : (zext16 b + zext16 nnn).toNat = b.toNat + nnn.toNat := by
  have := b.isLt
  have := nnn.isLt
  rw [BitVec.toNat_add, toNat_zext16 (by decide), toNat_zext16 (by decide)]
  omega

/-- Settles O35: a byte and a 12-bit address have a sum below 65536. -/
theorem jumpWithOffsetAddsV0 : Obligations.JumpWithOffsetAddsV0 := by
  intro s nnn
  exact ⟨_, exec_jpV0 nnn s, toNat_zext16_add _ nnn, rfl⟩

theorem exec_ldVxDt (x : Reg) (s : State) : exec (.ldVxDt x) s = s.aluPlain x s.dt := rfl

theorem exec_ldDtVx (x : Reg) (s : State) : exec (.ldDtVx x) s = (s.withDt (s.getV x)).nextInsn := rfl

theorem exec_ldStVx (x : Reg) (s : State) : exec (.ldStVx x) s = (s.withSt (s.getV x)).nextInsn := rfl

/-- Settles O56: a plain register write of DT, and the writes of the two timers. -/
theorem timerReadsAndWrites : Obligations.TimerReadsAndWrites := by
  intro s x
  refine ⟨⟨_, exec_ldVxDt x s, ?_, rfl, rfl, rfl⟩, ⟨_, exec_ldDtVx x s, rfl, rfl, rfl, rfl⟩,
    ⟨_, exec_ldStVx x s, rfl, rfl, rfl, rfl⟩⟩
  rw [State.direct_getV, State.getV_setV_same]

end Sys2Proof.Machine
end

section
/-! The index register and memory (`43_index_memory.md` R192 to R195): the glyph address, and the three forms whose bytes from
I on are all in memory. -/

namespace Sys2Proof.Machine

theorem exec_ldF (x : Reg) (s : State) : exec (.ldF x) s = (s.withI (glyphAddr (s.getV x))).nextInsn := rfl

theorem glyphDigit_of_lt {v : Byte} (h : v.toNat < 16) : glyphDigit v = v.toNat := if_pos h

theorem glyphDigit_of_unmasked (v : Byte) (h : Config.glyphAddrPolicy = .unmasked) : glyphDigit v = v.toNat := by
  simp only [glyphDigit, h, ite_self]

theorem glyphDigit_of_lowNibble (v : Byte) (h : Config.glyphAddrPolicy = .lowNibble) :
    glyphDigit v = v.toNat % 16 := by
  obtain hlt | hge := Nat.lt_or_ge v.toNat 16
  · rw [glyphDigit_of_lt hlt, Nat.mod_eq_of_lt hlt]
  · simp only [glyphDigit, h, if_neg hge.not_gt]

theorem glyphDigit_lt (v : Byte) : glyphDigit v < 256 := by
  have := v.isLt
  cases h : Config.glyphAddrPolicy with
  | unmasked => rw [glyphDigit_of_unmasked v h]; omega
  | lowNibble => rw [glyphDigit_of_lowNibble v h]; omega

theorem toNat_glyphAddr (v : Byte) : (glyphAddr v).toNat = glyphDigit v * 5 := by
  have := glyphDigit_lt v
  rw [glyphAddr, BitVec.toNat_ofNat]
  omega

/-- Settles O47: the address is five times the digit, which is the register's value but for what the policy masks. -/
theorem glyphAddress : Obligations.GlyphAddress := by
  intro s x
  have hi : ((s.withI (glyphAddr (s.getV x))).direct .next).i.toNat = glyphDigit (s.getV x) * 5 := toNat_glyphAddr _
  refine ⟨_, exec_ldF x s, rfl, rfl, fun h => ?_, fun h => ?_, fun h => ?_⟩
  · rw [hi, glyphDigit_of_lt h]
  · rw [hi, glyphDigit_of_unmasked _ h]
  · rw [hi, glyphDigit_of_lowNibble _ h]

theorem State.effAddr_eq (s : State) (k : Nat) : s.effAddr k = s.effAddr 0 + k := rfl

/-- Byte k of a run stored from I on is read back at I + k. -/
theorem State.read_store {s : State} (hm : s.mem.wf = true) {bs : List Byte} (hin : s.i.toNat + bs.length ≤ 4096)
    {k : Nat} (hk : k < bs.length) : (s.mem.writeList (s.effAddr 0) bs).read (s.effAddr k) = bs[k] :=
  Memory.read_writeList_inside hm bs hin hk

theorem exec_ldB_of_le {s : State} (x : Reg) (h : s.i.toNat + 3 ≤ 4096) :
    exec (.ldB x) s = (s.withMem (s.mem.writeList (s.effAddr 0) (bcdDigits (s.getV x)))).nextInsn :=
  s.accessing_of_le _ (.inr h)

theorem exec_storeRegs_of_le {s : State} (x : Reg) (h : s.i.toNat + (x.toNat + 1) ≤ 4096) :
    exec (.storeRegs x) s = (s.withMem (s.mem.writeList (s.effAddr 0) (s.getVs 0 (x.toNat + 1)))).nextInsn :=
  s.accessing_of_le _ (.inr h)

theorem exec_loadRegs_of_le {s : State} (x : Reg) (h : s.i.toNat + (x.toNat + 1) ≤ 4096) :
    exec (.loadRegs x) s = (s.setVs 0 (s.mem.readList (s.effAddr 0) (x.toNat + 1))).nextInsn :=
  s.accessing_of_le _ (.inr h)

/-- The digits make up the number, and each is a digit; the hundreds of a byte are at most 2. -/
theorem bcdDigits_spec (v : Byte) : ∃ h t o, bcdDigits v = [h, t, o] ∧
    v.toNat = h.toNat * 100 + t.toNat * 10 + o.toNat ∧ h.toNat ≤ 2 ∧ t.toNat ≤ 9 ∧ o.toNat ≤ 9 := by
  have := v.isLt
  refine ⟨_, _, _, rfl, ?_⟩
  simp only [BitVec.toNat_ofNat]
  omega

/-- Settles O48: the three bytes stored are the digits. -/
theorem bcdStore : Obligations.BcdStore := by
  intro s x hm hi
  obtain ⟨h, t, o, hdigits, hspec, hh, ht, ho⟩ := bcdDigits_spec (s.getV x)
  have hin : s.i.toNat + [h, t, o].length ≤ 4096 := by simp only [List.length_cons, List.length_nil]; omega
  have hread {k : Nat} (hk : k < 3) := State.read_store hm hin hk
  refine ⟨_, exec_ldB_of_le x (by omega), ?_⟩
  simp only [State.direct_mem, State.withMem_mem, hdigits]
  rw [hread (k := 0) (by decide), hread (k := 1) (by decide), hread (k := 2) (by decide)]
  exact ⟨hspec, hh, ht, ho, rfl, rfl, rfl⟩

/-- Settles O49: byte z of the block is V[z]. -/
theorem registerBlockStore : Obligations.RegisterBlockStore := by
  intro s x hm hi
  refine ⟨_, exec_storeRegs_of_le x (by omega), fun z hz => ?_, rfl, rfl, rfl⟩
  have hin : s.i.toNat + (s.getVs 0 (x.toNat + 1)).length ≤ 4096 := by rw [State.length_getVs]; omega
  have hk : z.toNat < (s.getVs 0 (x.toNat + 1)).length := by rw [State.length_getVs]; omega
  rw [State.direct_mem, State.withMem_mem, State.read_store hm hin hk, State.getElem_getVs, Nat.zero_add,
    BitVec.ofNat_toNat, BitVec.setWidth_eq]

/-- Settles O50: V[z] becomes byte z of the block; the registers above x are no part of it. -/
theorem registerBlockLoad : Obligations.RegisterBlockLoad := by
  intro s x hi
  have hx := x.isLt
  have hlen : 0 + (s.mem.readList (s.effAddr 0) (x.toNat + 1)).length = x.toNat + 1 := by
    rw [Memory.length_readList, Nat.zero_add]
  have hget := s.getV_setVs 0 (s.mem.readList (s.effAddr 0) (x.toNat + 1)) (by omega)
  refine ⟨_, exec_loadRegs_of_le x (by omega), fun z hz => ?_, fun z hz => ?_, ?_⟩
  · rw [State.direct_getV, hget, dif_pos (by omega), Memory.getElem_readList, Nat.sub_zero, ← State.effAddr_eq]
  · rw [State.direct_getV, hget, dif_neg (by omega)]
  · rw [State.setVs_eq]
    exact ⟨rfl, rfl, rfl⟩

/-- Settles O51: the block store puts V[z] at I + z, and the block load takes it from there. -/
theorem blockLoadAfterBlockStore : Obligations.BlockLoadAfterBlockStore := by
  intro s t t' x hm hi he hmem hi'
  obtain ⟨t₁, ht₁, hstored, hkeep, -⟩ := registerBlockStore s x hm hi
  cases ht₁.symm.trans he
  rw [hkeep] at hi'
  obtain ⟨u, hu, hloaded, -⟩ := registerBlockLoad t' x (by rw [hi']; exact hi)
  refine ⟨u, hu, fun z hz => ?_⟩
  rw [hloaded z hz, hmem, ← hstored z hz, State.effAddr, State.effAddr, hi']

/-- Settles O23: the two bytes that the fetch reads are those of two neighbouring registers that were stored. -/
theorem storedBytesAreFetched : Obligations.StoredBytesAreFetched := by
  intro s t x k k' hm hi hk hx he
  obtain ⟨t₁, ht₁, hstored, -⟩ := registerBlockStore s x hm hi
  cases ht₁.symm.trans he
  have hpc : (BitVec.ofNat 16 (s.effAddr k.toNat)).toNat = s.effAddr k.toNat := by
    rw [BitVec.toNat_ofNat, State.effAddr]
    omega
  have hnext : s.effAddr k.toNat + 1 = s.effAddr k'.toNat := by simp only [State.effAddr]; omega
  rw [State.fetch?_of_lt (by rw [State.withPc_pc, hpc, State.effAddr]; omega), State.withPc_pc, State.withPc_mem, hpc,
    hnext, hstored k (by omega), hstored k' hx]

end Sys2Proof.Machine
end

section
/-! The canonical form of memory: the list is determined by what it reads as, since it lists exactly the addresses that do not
read as unlisted. -/

namespace Sys2Proof.Machine

theorem Memory.wfFrom_cons {lo k : Nat} {b : Byte} {m : Memory} :
    Memory.wfFrom lo ((k, b) :: m) = true ↔
      lo ≤ k ∧ k < 4096 ∧ b ≠ Memory.unlisted k ∧ Memory.wfFrom (k + 1) m = true := by
  simp only [Memory.wfFrom, Bool.and_eq_true, decide_eq_true_eq, bne_iff_ne, and_assoc]

theorem Memory.read_head (k : Nat) (b : Byte) (m : Memory) : Memory.read ((k, b) :: m) k = b := if_pos rfl

theorem Memory.read_tail {k a : Nat} (b : Byte) (m : Memory) (h : a ≠ k) :
    Memory.read ((k, b) :: m) a = Memory.read m a := if_neg h.symm

/-- What a canonical memory does not read as unlisted is not below its first cell. -/
theorem Memory.le_of_read_ne {lo a : Nat} {m : Memory} (h : Memory.wfFrom lo m = true)
    (ha : m.read a ≠ Memory.unlisted a) : lo ≤ a := by
  by_contra hlt
  exact ha (Memory.read_of_wfFrom h (Nat.lt_of_not_le hlt))

/-- The first cell of one of two canonical memories that read the same is not before the first cell of the other. -/
theorem Memory.head_le_head {lo k k' : Nat} {b b' : Byte} {m m' : Memory} (h : Memory.wfFrom lo ((k, b) :: m) = true)
    (h' : Memory.wfFrom lo ((k', b') :: m') = true)
    (hread : Memory.read ((k, b) :: m) k = Memory.read ((k', b') :: m') k) : k' ≤ k := by
  obtain ⟨-, -, hb, -⟩ := Memory.wfFrom_cons.mp h
  obtain ⟨-, hk', hb', hm'⟩ := Memory.wfFrom_cons.mp h'
  refine Memory.le_of_read_ne (Memory.wfFrom_cons.mpr ⟨le_refl k', hk', hb', hm'⟩) ?_
  rwa [← hread, Memory.read_head]

theorem Memory.ext_of_wfFrom {lo : Nat} {m m' : Memory} (h : Memory.wfFrom lo m = true)
    (h' : Memory.wfFrom lo m' = true) (hread : ∀ a, a < 4096 → m.read a = m'.read a) : m = m' := by
  induction m generalizing lo m' with
  | nil =>
    cases m' with
    | nil => rfl
    | cons c m' =>
      obtain ⟨-, hk, hb, -⟩ := Memory.wfFrom_cons.mp h'
      exact absurd ((Memory.read_head ..).symm.trans (hread _ hk).symm) hb
  | cons c m ih =>
    obtain ⟨k, b⟩ := c
    obtain ⟨-, hk, hb, hm⟩ := Memory.wfFrom_cons.mp h
    cases m' with
    | nil => exact absurd ((Memory.read_head ..).symm.trans (hread _ hk)) hb
    | cons c' m' =>
      obtain ⟨k', b'⟩ := c'
      obtain ⟨-, hk', -, hm'⟩ := Memory.wfFrom_cons.mp h'
      obtain rfl : k = k' :=
        le_antisymm (Memory.head_le_head h' h (hread k' hk').symm) (Memory.head_le_head h h' (hread k hk))
      obtain rfl : b = b' := by rw [← Memory.read_head k b m, hread k hk, Memory.read_head]
      refine congrArg _ (ih hm hm' fun a ha => ?_)
      obtain rfl | hne := eq_or_ne a k
      · rw [Memory.read_of_wfFrom hm a.lt_succ_self, Memory.read_of_wfFrom hm' a.lt_succ_self]
      · rw [← Memory.read_tail b m hne, hread a ha, Memory.read_tail b m' hne]

/-- Settles O22: by induction over the cells, the first cells of both agree and so do the rests. -/
theorem canonicalMemoriesAreExtensional : Obligations.CanonicalMemoriesAreExtensional :=
  fun _ _ h h' hread => Memory.ext_of_wfFrom h h' hread

end Sys2Proof.Machine
end

section
/-! The display (`44_display.md` R210 to R216): the pixels that the law of a sprite's rows speaks of are those that the
statements call hit, and so a draw inverts these, tells by VF whether one of them was on, and by DIRTY whether there is one. -/

namespace Sys2Proof.Machine

/-- Settles O53: the cleared display, with DIRTY set. -/
theorem clearDisplay : Obligations.ClearDisplay := by
  intro s
  exact ⟨_, rfl, Display.get_clear, rfl, rfl, rfl, rfl⟩

theorem State.length_spriteRows (s : State) (n : Nibble) : (s.spriteRows n).length = n.toNat :=
  Memory.length_readList ..

theorem State.getElem_spriteRows (s : State) (n : Nibble) {j : Nat} (hj : j < (s.spriteRows n).length) :
    (s.spriteRows n)[j] = s.mem.read (s.effAddr j) :=
  Memory.getElem_readList ..

theorem bitMeets_iff {X row : Byte} {c : Fin 64} :
    BitMeets X row 0 8 c ↔ ∃ b, b < 8 ∧ row.getLsbD (7 - b) = true ∧ c.val = (X.toNat + b) % 64 := by
  simp only [BitMeets, spriteBit, pixelCol, Fin.ext_iff, Nat.zero_le, true_and, Nat.zero_add, eq_comm]

theorem spriteMeets_iff {s : State} {x y : Reg} {n : Nibble} {r : Fin 32} {c : Fin 64} :
    SpriteMeets (s.getV x) (s.getV y) 0 (s.spriteRows n) r c ↔ s.spriteHits x y n r c := by
  have hrow (j : Nat) : pixelRow (s.getV y) (0 + j) = r ↔ r.val = ((s.getV y).toNat + j) % 32 := by
    rw [Fin.ext_iff, pixelRow, Nat.zero_add, eq_comm]
  constructor
  · rintro ⟨j, hj, hr, hbit⟩
    obtain ⟨b, hb, hset, hc⟩ := bitMeets_iff.mp hbit
    rw [State.getElem_spriteRows] at hset
    exact ⟨j, b, by rwa [State.length_spriteRows] at hj, hb, hset, (hrow j).mp hr, hc⟩
  · rintro ⟨j, b, hj, hb, hset, hr, hc⟩
    refine ⟨j, by rwa [State.length_spriteRows], (hrow j).mpr hr, bitMeets_iff.mpr ⟨b, hb, ?_, hc⟩⟩
    rwa [State.getElem_spriteRows]

/-- What the draw of Dxyn does, in terms of the pixels that are hit. -/
theorem State.draw_spec (s : State) (x y : Reg) (n : Nibble) :
    (∀ r c, s.spriteHits x y n r c → (s.draw x y n).display.get r c = !s.display.get r c) ∧
    (∀ r c, ¬s.spriteHits x y n r c → (s.draw x y n).display.get r c = s.display.get r c) ∧
    ((s.draw x y n).collide = true ↔ ∃ r c, s.spriteHits x y n r c ∧ s.display.get r c = true) ∧
    ((s.draw x y n).toggled = true ↔ ∃ r c, s.spriteHits x y n r c) := by
  have hn := n.isLt
  have hrows : 0 + (s.spriteRows n).length ≤ 32 := by rw [State.length_spriteRows]; omega
  have h := Blit.rows_spec ⟨s.display, false, false⟩ (s.getV x) (s.getV y) 0 (s.spriteRows n) hrows
  simp only [spriteMeets_iff, Bool.false_eq_true, false_or] at h
  exact h

/-- The state that Dxyn leaves with its rows in memory. -/
def State.drawn (s : State) (x y : Reg) (n : Nibble) : State :=
  (((s.withDisplay (s.draw x y n).display).setVF (collisionFlag (s.draw x y n).collide)).withDirty
    ((s.draw x y n).toggled || s.dirty)).direct .next

theorem exec_drw_of_le {s : State} (x y : Reg) {n : Nibble} (h : n = 0 ∨ s.i.toNat + n.toNat ≤ 4096) :
    exec (.drw x y n) s = .next (s.drawn x y n) :=
  s.accessing_of_le _ (h.imp (congrArg BitVec.toNat) id)

/-- A Dxyn that raises no fault has its rows in memory. -/
theorem exec_drw_without_fault {s t : State} {x y : Reg} {n : Nibble} (he : exec (.drw x y n) s = .next t)
    (ht : t.fault = none) : t = s.drawn x y n := by
  obtain ⟨-, hacc⟩ | ⟨-, -, hacc⟩ := s.accessing_cases n.toNat (.next (s.drawn x y n))
  · cases he.symm.trans hacc
    rfl
  · cases he.symm.trans hacc
    cases ht

section
variable (s : State) (x y : Reg) (n : Nibble)

theorem State.drawn_display : (s.drawn x y n).display = (s.draw x y n).display := rfl

theorem State.drawn_vf : (s.drawn x y n).getV 0xF = flagByte (s.draw x y n).collide := by
  rw [State.drawn, State.direct_getV, State.withDirty_getV, State.getV_setVF, if_pos rfl, collisionFlag]

theorem State.drawn_dirty : (s.drawn x y n).dirty = ((s.draw x y n).toggled || s.dirty) := rfl

end

theorem flagByte_eq_one_iff (c : Bool) : flagByte c = 1 ↔ c = true := by
  cases c <;> decide

theorem flagByte_eq_zero_iff (c : Bool) : flagByte c = 0 ↔ ¬c = true := by
  cases c <;> decide

/-- VF after a draw. -/
theorem State.drawn_vf_eq_one_iff {s : State} {x y : Reg} {n : Nibble} :
    (s.drawn x y n).getV 0xF = 1 ↔ ∃ r c, s.spriteHits x y n r c ∧ s.display.get r c = true := by
  obtain ⟨-, -, hcollide, -⟩ := s.draw_spec x y n
  rw [State.drawn_vf, flagByte_eq_one_iff, hcollide]

theorem State.drawn_vf_eq_zero {s : State} {x y : Reg} {n : Nibble}
    (h : ∀ r c, s.spriteHits x y n r c → s.display.get r c = false) : (s.drawn x y n).getV 0xF = 0 := by
  obtain ⟨-, -, hcollide, -⟩ := s.draw_spec x y n
  rw [State.drawn_vf, flagByte_eq_zero_iff, hcollide]
  rintro ⟨r, c, hhit, hon⟩
  rw [h r c hhit] at hon
  cases hon

/-- Settles O54: what the draw does to the pixels that are hit and to the others, and the two flags. -/
theorem drawXorsTheSprite : Obligations.DrawXorsTheSprite := by
  intro s x y n hin
  obtain ⟨hhit, hmiss, -, htoggled⟩ := s.draw_spec x y n
  refine ⟨_, exec_drw_of_le x y hin, hhit, hmiss, State.drawn_vf_eq_one_iff.mpr, State.drawn_vf_eq_zero, ?_, rfl, rfl⟩
  rw [State.drawn_dirty, Bool.or_eq_true, htoggled, or_comm]

theorem byte_ne_zero_iff {b : Byte} : b ≠ 0 ↔ ∃ k, k < 8 ∧ b.getLsbD (7 - k) = true := by
  constructor
  · intro h
    by_contra hno
    refine h (BitVec.eq_of_getLsbD_eq fun i hi => ?_)
    have hoff : ¬b.getLsbD i = true := fun hon =>
      hno ⟨7 - i, by omega, by rwa [show 7 - (7 - i) = i by omega]⟩
    simpa using hoff
  · rintro ⟨k, -, hk⟩ rfl
    simp at hk

/-- A set bit always lands on a pixel, because placement wraps (R210). -/
theorem State.exists_spriteHits_iff {s : State} {x y : Reg} {n : Nibble} :
    (∃ r c, s.spriteHits x y n r c) ↔ ∃ j, j < n.toNat ∧ s.mem.read (s.effAddr j) ≠ 0 := by
  constructor
  · rintro ⟨r, c, j, b, hj, hb, hset, -⟩
    exact ⟨j, hj, byte_ne_zero_iff.mpr ⟨b, hb, hset⟩⟩
  · rintro ⟨j, hj, hne⟩
    obtain ⟨b, hb, hset⟩ := byte_ne_zero_iff.mp hne
    exact ⟨pixelRow (s.getV y) j, pixelCol (s.getV x) b, j, b, hj, hb, hset, rfl, rfl⟩

/-- Which pixels are hit depends on V[x], V[y], I and the rows only. -/
theorem State.spriteHits_congr {s t : State} {x y : Reg} {n : Nibble} (hi : t.i = s.i) (hx : t.getV x = s.getV x)
    (hy : t.getV y = s.getV y) (hrows : ∀ j, j < n.toNat → t.mem.read (s.effAddr j) = s.mem.read (s.effAddr j))
    (r : Fin 32) (c : Fin 64) : t.spriteHits x y n r c ↔ s.spriteHits x y n r c := by
  have heff (j : Nat) : t.effAddr j = s.effAddr j := by rw [State.effAddr, State.effAddr, hi]
  simp only [State.spriteHits, heff, hx, hy]
  constructor
  · rintro ⟨j, b, hj, hb, hset, hplace⟩
    exact ⟨j, b, hj, hb, hrows j hj ▸ hset, hplace⟩
  · rintro ⟨j, b, hj, hb, hset, hplace⟩
    exact ⟨j, b, hj, hb, (hrows j hj).symm ▸ hset, hplace⟩

/-- Settles O55: both draws hit the same pixels, so each of them is inverted twice, and before the second draw it is the
opposite of what it was before the first. -/
theorem drawTwiceRestoresTheDisplay : Obligations.DrawTwiceRestoresTheDisplay := by
  intro s t t' x y n hin he hdisp hi hx hy hrows
  cases (exec_drw_of_le x y hin).symm.trans he
  have hsame := State.spriteHits_congr (n := n) hi hx hy hrows
  obtain ⟨hhit, hmiss, -, -⟩ := s.draw_spec x y n
  obtain ⟨hhit', hmiss', -, -⟩ := t'.draw_spec x y n
  simp only [hsame, hdisp, State.drawn_display] at hhit' hmiss'
  have hvf : (t'.drawn x y n).getV 0xF = 1 ↔ ∃ r c, s.spriteHits x y n r c ∧ s.display.get r c = false := by
    rw [State.drawn_vf_eq_one_iff]
    refine exists_congr fun r => exists_congr fun c => ?_
    rw [hsame, hdisp, State.drawn_display]
    refine and_congr_right fun h => ?_
    rw [hhit r c h, Bool.not_eq_true']
  refine ⟨_, exec_drw_of_le x y (hi ▸ hin), Display.ext_get fun r c => ?_, hvf.mpr, fun hon => ?_, fun hoff => ?_⟩
  · rw [State.drawn_display]
    by_cases h : s.spriteHits x y n r c
    · rw [hhit' r c h, hhit r c h, Bool.not_not]
    · rw [hmiss' r c h, hmiss r c h]
  · refine State.drawn_vf_eq_zero fun r c h => ?_
    rw [hsame] at h
    rw [hdisp, State.drawn_display, hhit r c h, hon r c h, Bool.not_true]
  · rw [hvf, ← State.exists_spriteHits_iff (x := x) (y := y)]
    exact exists_congr fun r => exists_congr fun c => and_iff_left_of_imp (hoff r c)

/-- Settles O14: a tick begins with DIRTY cleared; 00E0 sets it, Dxyn sets it where a pixel is hit, and no other instruction
may write it. -/
theorem dirtyAtTheEndOfATick : Obligations.DirtyAtTheEndOfATick := by
  intro s t ins _ hf h ht
  obtain ⟨ins', u, hf', he, hu, rfl⟩ := step_without_fault h ht
  cases hf'.symm.trans hf
  rw [State.timerStep_dirty]
  by_cases hw : mayWrite ins s.beginTick .dirty
  · obtain rfl | ⟨x, y, n, rfl⟩ := mayWrite_dirty_iff.mp hw
    · cases he
      exact iff_of_true rfl (.inl rfl)
    · obtain ⟨-, -, -, htoggled⟩ := s.beginTick.draw_spec x y n
      rw [exec_drw_without_fault he hu, State.drawn_dirty, State.beginTick_dirty, Bool.or_false, htoggled,
        State.exists_spriteHits_iff]
      constructor
      · exact fun hrow => .inr ⟨x, y, n, rfl, hrow⟩
      · rintro (hcls | ⟨x', y', n', heq, hrow⟩)
        · cases hcls
        · cases heq
          exact hrow
  · have hkeep : u.dirty = false := exec_frame he hw
    refine iff_of_false (by simp [hkeep]) ?_
    rintro (hcls | ⟨x, y, n, hdrw, -⟩)
    · exact hw (mayWrite_dirty_iff.mpr (.inl hcls))
    · exact hw (mayWrite_dirty_iff.mpr (.inr ⟨x, y, n, hdrw⟩))

/-- Settles O45: the flag writers leave a flag byte; the frames give the rest, where Fx65 names VF only as the last of all 16
registers. -/
theorem flagWritersOfVF : Obligations.FlagWritersOfVF := by
  intro ins s t _ he ht
  have hkeep (hp : ¬mayWrite ins s (.v 0xF)) : t.getV 0xF = s.getV 0xF := exec_frame he hp
  have hflag {x : Reg} {b : Byte} {c : Bool} (h : exec ins s = s.aluFlag x b (flagByte c)) :
      t.getV 0xF = 0 ∨ t.getV 0xF = 1 := by
    obtain ⟨t₁, ht₁, -, hvf, -⟩ := exists_next_of_aluFlag h
    cases ht₁.symm.trans he
    rw [hvf]
    exact flagByte_eq_zero_or_one c
  cases ins with
  | addReg x y => exact hflag (exec_addReg x y s)
  | subReg x y => exact hflag (exec_subReg x y s)
  | shr x y => exact hflag (exec_shr x y s)
  | subn x y => exact hflag (exec_subn x y s)
  | shl x y => exact hflag (exec_shl x y s)
  | drw x y n =>
    rw [exec_drw_without_fault he ht, State.drawn_vf]
    exact flagByte_eq_zero_or_one _
  | ldImm x | addImm x | ldReg x | orReg x | andReg x | xorReg x | rnd x | ldVxDt x | ldVxK x =>
    exact fun hx => hkeep (by simpa [mayWrite] using hx.symm)
  | loadRegs x =>
    refine fun hx => hkeep ?_
    rintro (hpc | hfault | ⟨z, hz, hv⟩)
    · cases hpc
    · cases hfault
    · cases hv
      exact hx (BitVec.eq_of_toNat_eq (le_antisymm (Nat.le_of_lt_succ x.isLt) hz))
  | _ => exact hkeep (by simp [mayWrite])

end Sys2Proof.Machine
end

section
/-! The legal states (`State.Inv`): what every instruction that a tick can fetch keeps of them, and that a fault taken by a tick
explains the state it stands in. -/

namespace Sys2Proof.Machine

/-- The clauses of `State.Inv` that speak of the machine and not of its fault record. -/
structure State.Bounded (s : State) : Prop where
  memory : s.mem.wf = true
  depth : s.sp ≤ 16
  entries : ∀ e ∈ s.stack, e.toNat ≤ 0x1000
  pcRange : s.pc.toNat ≤ 0x10FE

/-- Clearing DIRTY touches no clause. -/
theorem State.Inv.beginTick_bounded {s : State} (h : s.Inv) : s.beginTick.Bounded :=
  ⟨h.memory, h.depth, h.entries, h.pcRange⟩

namespace State.Bounded

variable {s s' u : State}

theorem takeFault (h : s.Bounded) (kind : Fault) (info : Nat) : (s.takeFault kind info).Bounded :=
  ⟨h.memory, h.depth, h.entries, h.pcRange⟩

theorem withPc (h : s.Bounded) {pc : Word} (hpc : pc.toNat ≤ 0x10FE) : (s.withPc pc).Bounded :=
  ⟨h.memory, h.depth, h.entries, hpc⟩

/-- From a PC that can be fetched from, NEXT and SKIP stay far below the bound (R27). -/
theorem direct (h : s.Bounded) (hpc : s.pc.toNat + 1 < 4096) (d : Directive) : (s.direct d).Bounded := by
  cases d with
  | next => exact h.withPc (by bv_omega)
  | skip => exact h.withPc (by bv_omega)
  | hold => exact h

/-- An instruction that goes on with canonical memory and neither stack nor PC written. -/
theorem of_nextInsn (h : s.Bounded) (hpc : s.pc.toNat + 1 < 4096) (he : s'.nextInsn = .next u)
    (hm : s'.mem.wf = true) (hs : s'.stack = s.stack) (hp : s'.pc = s.pc) : u.Bounded := by
  cases he
  refine direct ⟨hm, ?_, hs ▸ h.entries, hp ▸ h.pcRange⟩ (hp ▸ hpc) .next
  rw [State.sp, hs]
  exact h.depth

theorem of_accessing {n : Nat} {k : Result} (h : s.Bounded) (he : s.accessing n k = .next u)
    (hk : (n = 0 ∨ s.i.toNat + n ≤ 4096) → k = .next u → u.Bounded) : u.Bounded := by
  obtain ⟨hin, hacc⟩ | ⟨-, -, hacc⟩ := s.accessing_cases n k
  · exact hk hin (hacc.symm.trans he)
  · cases hacc.symm.trans he
    exact h.takeFault _ _

theorem of_skipOnKey {x : Reg} {pressed : Bool} (h : s.Bounded) (hpc : s.pc.toNat + 1 < 4096)
    (he : s.skipOnKey x pressed = .next u) : u.Bounded := by
  obtain hlt | hge := Nat.lt_or_ge (s.getV x).toNat 16
  · cases (State.skipOnKey_of_lt pressed hlt).symm.trans he
    exact h.direct hpc _
  · cases (State.skipOnKey_of_ge pressed hge).symm.trans he
    exact h.takeFault _ _

/-- A call from a PC that can be fetched from pushes at most 0x1000 (R144). -/
theorem push (h : s.Bounded) (hpc : s.pc.toNat + 1 < 4096) (hroom : s.sp < 16) :
    (s.withStack (s.stack ++ [s.pc + 2])).Bounded := by
  refine ⟨h.memory, ?_, fun e he => ?_, h.pcRange⟩
  · rw [State.sp, State.withStack_stack, List.length_append]
    exact hroom
  · obtain hold | hnew := List.mem_append.mp he
    · exact h.entries e hold
    · rw [List.mem_singleton.mp hnew]
      bv_omega

theorem pop (h : s.Bounded) {rest : List Word} {v : Word} (happ : s.stack = rest ++ [v]) :
    (s.withStack rest).Bounded := by
  refine ⟨h.memory, ?_, fun e he => h.entries e ?_, h.pcRange⟩
  · have hdepth := h.depth
    rw [State.sp, happ, List.length_append] at hdepth
    exact Nat.le_of_add_right_le hdepth
  · rw [happ]
    exact List.mem_append_left _ he

end State.Bounded

/-- An instruction that a tick can fetch keeps the bounds. -/
theorem exec_bounded {ins : Instr} {s u : State} (h : s.Bounded) (hpc : s.pc.toNat + 1 < 4096)
    (he : exec ins s = .next u) : u.Bounded := by
  cases ins with
  | jp nnn =>
    cases he
    refine h.withPc ?_
    have := nnn.isLt
    rw [toNat_zext16 (by decide)]
    omega
  | jpV0 nnn =>
    cases he
    refine h.withPc ?_
    have := nnn.isLt
    have := (s.getV 0).isLt
    rw [toNat_zext16_add]
    omega
  | call nnn =>
    obtain hroom | hfull := Nat.lt_or_ge s.sp 16
    · cases (exec_call_of_room nnn hroom).symm.trans he
      refine (h.push hpc hroom).withPc ?_
      have := nnn.isLt
      rw [toNat_zext16 (by decide)]
      omega
    · cases (exec_call_of_full nnn hfull).symm.trans he
      exact h.takeFault _ _
  | ret =>
    obtain hempty | ⟨rest, v, happ⟩ := s.stack_cases
    · cases (exec_ret_of_empty hempty).symm.trans he
      exact h.takeFault _ _
    · cases (exec_ret_of_append happ).symm.trans he
      have hv := h.entries v (by rw [happ]; exact List.mem_append_right _ (List.mem_singleton_self v))
      exact (h.pop happ).withPc (by omega)
  | seImm | sneImm | seReg | sneReg =>
    cases he
    exact h.direct hpc _
  | skp | sknp => exact h.of_skipOnKey hpc he
  | ldVxK x =>
    cases hkey : s.firstKey 0 16 with
    | some k =>
      rw [exec_ldVxK_of_firstKey x hkey] at he
      exact h.of_nextInsn hpc he h.memory rfl rfl
    | none =>
      cases (exec_ldVxK_of_no_key x hkey).symm.trans he
      exact h
  | ldB x =>
    exact h.of_accessing he fun hin hk => h.of_nextInsn hpc hk
      (Memory.wf_writeList h.memory _ (hin.resolve_left (by decide))) rfl rfl
  | storeRegs x =>
    refine h.of_accessing he fun hin hk => h.of_nextInsn hpc hk (Memory.wf_writeList h.memory _ ?_) rfl rfl
    rw [State.length_getVs]
    exact hin.resolve_left (Nat.succ_ne_zero _)
  | loadRegs x =>
    refine h.of_accessing he fun _ hk => ?_
    rw [State.setVs_eq] at hk
    exact h.of_nextInsn hpc hk h.memory rfl rfl
  | drw => exact h.of_accessing he fun _ hk => h.of_nextInsn hpc hk h.memory rfl rfl
  | _ => exact h.of_nextInsn hpc he h.memory rfl rfl

/-- The record of a tick that raised a fault says what is the matter (R250, R251). -/
theorem FaultRecord.explains_of_raised {s : State} {r : FaultRecord} (hdepth : s.sp ≤ 16) (hpc : r.pc = s.pc)
    (h : s.fetchDecode = .raised r.kind r.info ∨ ∃ ins, s.fetchDecode = .insn ins ∧ Raises ins s r.kind r.info) :
    r.explains (s.withFault (some r)) := by
  obtain ⟨kind, info, pc⟩ := r
  refine ⟨hpc, ?_⟩
  obtain hraised | ⟨ins, -, hraises⟩ := h
  · obtain ⟨rfl, hout⟩ | ⟨rfl, -⟩ := State.fetchDecode_eq_raised hraised
    · exact hout
    · exact hraised
  · cases kind with
    | stackOverflow =>
      obtain ⟨-, hfull, hinfo⟩ := hraises
      exact ⟨le_antisymm hdepth hfull, hinfo⟩
    | stackUnderflow =>
      obtain ⟨-, hempty, hinfo⟩ := hraises
      exact ⟨hempty, hinfo⟩
    | memOutOfBounds =>
      obtain ⟨-, -, hinfo⟩ := hraises
      exact hinfo
    | keyOutOfBounds =>
      obtain ⟨x, -, hx, hinfo⟩ := hraises
      exact ⟨hinfo ▸ hx, x, hinfo.symm⟩
    | decodeError | fetchOutOfBounds => exact hraises.elim

/-- Settles O16: without a fault the instruction keeps the bounds, the timer step touches none of them, and there is no record
to explain; with one the state is that of before the tick, and the record explains it. -/
theorem stepKeepsLegalStates : Obligations.StepKeepsLegalStates := by
  intro s t hs h
  cases ht : t.fault with
  | none =>
    obtain ⟨ins, u, hf, he, hu, rfl⟩ := step_without_fault h ht
    have hb : u.Bounded := exec_bounded hs.beginTick_bounded (State.pc_lt_of_fetchDecode hf) he
    exact ⟨hb.memory, hb.depth, hb.entries, hb.pcRange, fun r hr => by cases ht.symm.trans hr⟩
  | some r =>
    cases hn : s.fault with
    | some r' =>
      cases (step_of_fault hn).symm.trans h
      exact hs
    | none =>
      obtain ⟨rfl, hpc, hraised⟩ := step_fault_cases hn h ht
      have hr := FaultRecord.explains_of_raised hs.depth hpc hraised
      exact ⟨hs.memory, hs.depth, hs.entries, hs.pcRange, fun r' hr' => by cases hr'; exact hr⟩

/-- A load into the state after reset is legal: it writes memory only, and there is no fault. -/
theorem State.inv_load_reset (bytes : List Byte) : (State.reset.load bytes).Inv :=
  ⟨State.wf_load Memory.wf_nil bytes, Nat.zero_le _, nofun, show (0x200 : Word).toNat ≤ 0x10FE by decide, nofun⟩

/-- The keys stand in no clause. -/
theorem State.Inv.setKey {s : State} (h : s.Inv) (k : Fin 16) (pressed : Bool) : (s.setKey k pressed).Inv :=
  ⟨h.memory, h.depth, h.entries, h.pcRange, h.record⟩

/-- Settles O17: memory lists nothing, the stack is empty, PC is 0x200 and there is no fault. -/
theorem resetIsLegal : Obligations.ResetIsLegal :=
  State.inv_load_reset []

/-- Settles O18: by induction over the host's moves. -/
theorem reachableStatesAreLegal : Obligations.ReachableStatesAreLegal := by
  intro s hs
  induction hs with
  | boot bytes => exact State.inv_load_reset bytes
  | tick s t _ h ih => exact stepKeepsLegalStates s t ih h
  | setKey s k pressed _ ih => exact ih.setKey k pressed

end Sys2Proof.Machine
end

section
/-! What an instruction cannot learn: an update of parts that it does not read commutes with it, whether it goes on or takes a
fault. -/

namespace Sys2Proof.Machine

/-- The update of the state that an outcome answers. -/
def onNext (f : State → State) : Result → Result
  | .next t => .next (f t)
  | .fault r => .fault r
  | .refused r => .refused r

section
variable (s : State) (f : State → State)

theorem State.accessing_onNext {n : Nat} {k k' : Result} (hi : (f s).i = s.i)
    (hf : ∀ kind info, (f s).takeFault kind info = f (s.takeFault kind info)) (hk : k' = onNext f k) :
    (f s).accessing n k' = onNext f (s.accessing n k) := by
  subst hk
  obtain ⟨hin, hacc⟩ | ⟨h0, hout, hacc⟩ := s.accessing_cases n k
  · rw [hacc, State.accessing_of_le _ (by rwa [hi])]
  · rw [hacc, State.accessing_of_gt _ h0 (by rwa [hi]), hf, hi, onNext]

theorem State.skipOnKey_onNext {x : Reg} (pressed : Bool) (hv : (f s).getV x = s.getV x)
    (hkey : ∀ k, (f s).key k = s.key k) (hd : ∀ d, (f s).direct d = f (s.direct d))
    (hf : ∀ kind info, (f s).takeFault kind info = f (s.takeFault kind info)) :
    (f s).skipOnKey x pressed = onNext f (s.skipOnKey x pressed) := by
  obtain hlt | hge := Nat.lt_or_ge (s.getV x).toNat 16
  · rw [State.skipOnKey_of_lt pressed hlt, State.skipOnKey_of_lt pressed (by rwa [hv]), hv, hkey, hd, onNext]
  · rw [State.skipOnKey_of_ge pressed hge, State.skipOnKey_of_ge pressed (by rwa [hv]), hv, hf, onNext]

end

/-! ## The sound timer and the keys -/

/-- Another ST and other keys. -/
def State.withStKeys (st : Byte) (keys : Vector Bool 16) (s : State) : State := (s.withSt st).withKeys keys

section
variable (st : Byte) (keys : Vector Bool 16) (s : State)

theorem State.direct_withStKeys (d : Directive) :
    (s.withStKeys st keys).direct d = (s.direct d).withStKeys st keys := by
  cases d <;> rfl

theorem State.setVs_withStKeys (k : Nat) (bs : List Byte) :
    (s.withStKeys st keys).setVs k bs = (s.setVs k bs).withStKeys st keys := by
  induction bs generalizing s k with
  | nil => rfl
  | cons b bs ih => exact ih (s.setV (BitVec.ofNat 4 k) b) (k + 1)

theorem State.getVs_withStKeys (k n : Nat) : (s.withStKeys st keys).getVs k n = s.getVs k n := by
  induction n generalizing k with
  | zero => rfl
  | succ n ih => exact congrArg (_ :: ·) (ih (k + 1))

end

/-- An instruction other than Ex9E, ExA1, Fx0A and Fx18 neither reads nor writes ST and the keys. -/
theorem exec_withStKeys {ins : Instr} (s : State) (st : Byte) (keys : Vector Bool 16) (hst : ∀ x, ins ≠ .ldStVx x)
    (hkeys : ∀ x, ins ≠ .skp x ∧ ins ≠ .sknp x ∧ ins ≠ .ldVxK x) :
    exec ins (s.withStKeys st keys) = onNext (State.withStKeys st keys) (exec ins s) := by
  cases ins with
  | ldStVx x => exact absurd rfl (hst x)
  | skp x => exact absurd rfl (hkeys x).1
  | sknp x => exact absurd rfl (hkeys x).2.1
  | ldVxK x => exact absurd rfl (hkeys x).2.2
  | ret =>
    obtain hempty | ⟨rest, v, happ⟩ := s.stack_cases
    · rw [exec_ret_of_empty hempty, exec_ret_of_empty (s := s.withStKeys st keys) hempty]
      rfl
    · rw [exec_ret_of_append happ, exec_ret_of_append (s := s.withStKeys st keys) happ]
      rfl
  | call nnn =>
    obtain hroom | hfull := Nat.lt_or_ge s.sp 16
    · rw [exec_call_of_room nnn hroom, exec_call_of_room (s := s.withStKeys st keys) nnn hroom]
      rfl
    · rw [exec_call_of_full nnn hfull, exec_call_of_full (s := s.withStKeys st keys) nnn hfull]
      rfl
  | seImm | sneImm | seReg | sneReg => exact congrArg _ (s.direct_withStKeys st keys _)
  | drw | ldB => exact s.accessing_onNext (State.withStKeys st keys) rfl (fun _ _ => rfl) rfl
  | storeRegs x =>
    have hstore := s.getVs_withStKeys st keys 0 (x.toNat + 1)
    exact s.accessing_onNext (State.withStKeys st keys) rfl (fun _ _ => rfl)
      (congrArg (fun bs => ((s.withStKeys st keys).withMem (s.mem.writeList (s.effAddr 0) bs)).nextInsn) hstore)
  | loadRegs x =>
    have hload := s.setVs_withStKeys st keys 0 (s.mem.readList (s.effAddr 0) (x.toNat + 1))
    exact s.accessing_onNext (State.withStKeys st keys) rfl (fun _ _ => rfl) (congrArg State.nextInsn hload)
  | _ => rfl

/-- The scan for a pressed key (R236) does not see ST. -/
theorem State.firstKey_withSt (s : State) (st : Byte) (k n : Nat) : (s.withSt st).firstKey k n = s.firstKey k n := by
  induction n generalizing k with
  | zero => rfl
  | succ n ih => simp only [State.firstKey, State.withSt_key, ih]

theorem State.direct_withSt (s : State) (st : Byte) (d : Directive) :
    (s.withSt st).direct d = (s.direct d).withSt st := by
  cases d <;> rfl

theorem exec_keys {ins : Instr} {s t : State} (he : exec ins s = .next t) : t.keys = s.keys := by
  refine Vector.ext fun k hk => ?_
  have hkey := exec_key he k
  rwa [State.key, State.key, dif_pos hk, dif_pos hk] at hkey

/-- An instruction other than Fx18 neither reads nor writes ST: Ex9E, ExA1 and Fx0A read the keys and V[x]. -/
theorem exec_withSt {ins : Instr} (s : State) (st : Byte) (hst : ∀ x, ins ≠ .ldStVx x) :
    exec ins (s.withSt st) = onNext (State.withSt · st) (exec ins s) := by
  have hskip (x : Reg) (pressed : Bool) :
      (s.withSt st).skipOnKey x pressed = onNext (State.withSt · st) (s.skipOnKey x pressed) :=
    s.skipOnKey_onNext (State.withSt · st) pressed rfl (fun _ => rfl) (s.direct_withSt st) fun _ _ => rfl
  by_cases hkeys : ∀ x, ins ≠ .skp x ∧ ins ≠ .sknp x ∧ ins ≠ .ldVxK x
  · obtain ⟨t, ht⟩ := exec_next ins s
    have h := exec_withStKeys s st s.keys hst hkeys
    rw [ht] at h ⊢
    refine h.trans (congrArg Host.Outcome.next ?_)
    rw [← exec_keys ht]
    rfl
  · simp only [not_forall, not_and_or, not_not] at hkeys
    obtain ⟨x, rfl | rfl | rfl⟩ := hkeys
    · exact hskip x true
    · exact hskip x false
    · cases hkey : s.firstKey 0 16 with
      | some k =>
        rw [exec_ldVxK_of_firstKey x hkey, exec_ldVxK_of_firstKey x ((s.firstKey_withSt st 0 16).trans hkey)]
        rfl
      | none =>
        rw [exec_ldVxK_of_no_key x hkey, exec_ldVxK_of_no_key x ((s.firstKey_withSt st 0 16).trans hkey)]
        rfl

/-- Settles O59: Fx18 overwrites ST, and the update of ST commutes with every other instruction. -/
theorem soundTimerIsNotReadable : Obligations.SoundTimerIsNotReadable := by
  intro ins s t b he
  cases ins with
  | ldStVx x =>
    cases he
    rfl
  | _ => exact (exec_withSt s b fun _ h => by cases h).trans (congrArg _ he)

/-- Settles O60: the update of the keys commutes with every instruction but those three; Fx18 is run. -/
theorem keysAreReadByThreeInstructions : Obligations.KeysAreReadByThreeInstructions := by
  intro ins s t keys hkeys he
  by_cases hst : ∀ x, ins ≠ .ldStVx x
  · have h := exec_withStKeys s s.st keys hst hkeys
    rw [he] at h
    refine h.trans (congrArg Host.Outcome.next ?_)
    rw [← exec_st he hst]
    rfl
  · simp only [not_forall, not_not] at hst
    obtain ⟨x, rfl⟩ := hst
    cases he
    rfl

/-! ## The skipped opcode -/

theorem State.direct_withMem (s : State) (mem : Memory) (d : Directive) :
    (s.withMem mem).direct d = (s.direct d).withMem mem := by
  cases d <;> rfl

/-- A skip does not read memory. -/
theorem exec_withMem_of_isSkip {ins : Instr} (s : State) (mem : Memory) (h : isSkip ins = true) :
    exec ins (s.withMem mem) = onNext (State.withMem · mem) (exec ins s) := by
  have hskip (x : Reg) (pressed : Bool) :
      (s.withMem mem).skipOnKey x pressed = onNext (State.withMem · mem) (s.skipOnKey x pressed) :=
    s.skipOnKey_onNext (State.withMem · mem) pressed rfl (fun _ => rfl) (s.direct_withMem mem) fun _ _ => rfl
  cases ins with
  | seImm | sneImm | seReg | sneReg => exact congrArg _ (s.direct_withMem mem _)
  | skp x => exact hskip x true
  | sknp x => exact hskip x false
  | _ => cases h

/-- Fetch and decode see PC and the two bytes there. -/
theorem State.fetchDecode_withMem {s : State} {mem : Memory} (h0 : mem.read s.pc.toNat = s.mem.read s.pc.toNat)
    (h1 : mem.read (s.pc.toNat + 1) = s.mem.read (s.pc.toNat + 1)) : (s.withMem mem).fetchDecode = s.fetchDecode := by
  simp only [State.fetchDecode, State.fetch?, State.withMem_pc, State.withMem_mem, h0, h1]

theorem State.endTick_withMem (s0 s : State) (mem : Memory) :
    (s0.withMem mem).endTick (s.withMem mem) = (s0.endTick s).withMem mem := by
  cases h : s.fault with
  | some r =>
    rw [State.endTick_of_some h, State.endTick_of_some (s := s.withMem mem) h]
    rfl
  | none =>
    rw [State.endTick_of_none h, State.endTick_of_none (s := s.withMem mem) h]
    rfl

/-- Settles O37: a tick that runs a skip looks at memory only to fetch it, at PC and PC + 1. -/
theorem skippedOpcodeIsNotDecoded : Obligations.SkippedOpcodeIsNotDecoded := by
  intro s t m ins hn hf hskip h _ hm
  obtain ⟨u, hu⟩ := exec_next ins s.beginTick
  cases (step_of_insn hn hf hu).symm.trans h
  have hf' : (s.withMem m).fetchDecode = .insn ins := by
    rw [State.fetchDecode_withMem (hm _ (by omega) (by omega)) (hm _ (by omega) (by omega)), hf]
  have hu' : exec ins (s.withMem m).beginTick = .next (u.withMem m) := by
    have hcomm := exec_withMem_of_isSkip s.beginTick m hskip
    rw [hu] at hcomm
    exact hcomm
  rw [step_of_insn (s := s.withMem m) hn hf' hu', State.endTick_withMem]

end Sys2Proof.Machine
end
